-- ==== Sys2Proof/Word.lean ====
section
/-!
DEFINITION. The value types of the block (spec/00_scope.md rules R8 and R10). A value whose width the spec fixes is a
bit vector. A value whose width is a parameter of R8 (OPW, PIN_W, CMDW = 8 + OPW) is the unsigned integer R10 says it
is; that it lies below 2 to its width is checked in WellFormed.lean and kept by the invariant of Safety.lean (log
entry 2).
-/

namespace Sys2Proof

/-- One byte on the serial bus, and the control byte CTRL (R23). -/
abbrev Byte := BitVec 8

/-- The Frequency Word, DPH (R27): DPH_W = 32, fixed. -/
abbrev Phase := BitVec 32

/-- The opcode field OPC of a command word (R92). -/
abbrev Opcode := BitVec 8

/-- A pin identifier, PIN_W bits (R28). -/
abbrev Pin := Nat

/-- A frequency operand or CALIB, OPW bits: unsigned fixed point (R95, R110). -/
abbrev Operand := Nat

/-- A command word CMD, CMDW = 8 + OPW bits: OPC above OPND (R90, R92). -/
abbrev CmdWord := Nat

/-- A duration in whole picoseconds (log entry 4). -/
abbrev Duration := Nat

end Sys2Proof
end

