-- ==== Sys2Proof/Config.lean ====
section
/-!
DEFINITION. What one build of the block fixes (spec/00_scope.md rule R8) and the free values: constants with no
body, about which nothing can be proved but their type.
-/

namespace Sys2Proof

/-- The chip variant (R2, R21). -/
inductive Variant where
  /-- Type A, AD9850, 125 MHz. -/
  | typeA
  /-- Type B, AD9851, 180 MHz. -/
  | typeB
deriving DecidableEq, Repr

/-- The parameters of R8 that the spec leaves to one build. DPH_W, FRAME_BYTES, CTRL_W and the two nominal
frequencies are fixed by the spec. State carries a `Config` that no step changes, so what is proved of every state is
proved of every build (log entry 3). -/
structure Config where
  /-- VARIANT_SEL, the strap sampled at power-on (decision D1). -/
  variantSel : Variant
  /-- OPW, the width of a frequency operand (decision D5). -/
  opW : Nat
  /-- PIN_W, the width of a pin identifier (decision D14). -/
  pinW : Nat
  /-- OP_FRAC, the fraction bits of a frequency operand. -/
  opFrac : Nat
  /-- SCLK_HZ, the serial clock rate in Hz. -/
  sclkHz : Nat
  /-- T_RST_PW, the least high time of the reset pulse. -/
  tRstPw : Duration
  /-- T_PW, the least high time of a strobe or latch pulse and the least low time after every pulse. -/
  tPw : Duration
  /-- FORBIDDEN_PINS, the two identifiers the bus peripheral reserves (decision D15). -/
  forbiddenA : Pin
  /-- The second one. -/
  forbiddenB : Pin
deriving DecidableEq, Repr

/-- CMDW = 8 + OPW, the width of a command word (R8, R90). -/
def Config.cmdW (c : Config) : Nat := 8 + c.opW

/-- The build that `State.reset` powers on: the values of R8 for OPW, PIN_W, OP_FRAC and SCLK_HZ. The variant, the two
pulse widths and the two pins are OPEN in R8, and the values here are the model's (log entry 5, DESIGN CHOICE): no
statement rests on them. -/
def Config.default : Config where
  variantSel := .typeA
  opW := 32
  pinW := 8
  opFrac := 0
  sclkHz := 8000000
  tRstPw := 1000000
  tPw := 1000000
  forbiddenA := 11
  forbiddenB := 12

/-- FREE VALUE: the n-th answer of `draw_32()` (R11, R112): a 32-bit value chosen by no law (log entry 6). -/
opaque Config.draw32 : Nat → BitVec 32

/-- FREE VALUE: DPH_ACT of the reference receiver where R78 leaves it unspecified (log entry 7). -/
opaque Config.deviceDph : Nat → BitVec 32

/-- FREE VALUE: CTRL_ACT of the reference receiver where R78 leaves it unspecified (log entry 7). -/
opaque Config.deviceCtrl : Nat → BitVec 8

/-- FREE VALUE: whether the reference receiver is in power-down where the spec does not say (log entry 7). -/
opaque Config.devicePowerDown : Nat → Bool

/-- FREE VALUE: what a receiver would sample from an undriven MOSI (R36, decision D23; log entry 8). -/
opaque Config.idleMosi : Nat → Bool

end Sys2Proof
end

