-- ==== Sys2Proof/Syntax.lean ====
section
/-!
DEFINITION. The commands of the block, one constructor per row of spec/opcode_table.json (R93). The operand fields
are the unsigned values of R94 and R95; `Instr.wf` says that they have the widths of their build.
-/

namespace Sys2Proof

/-- A legal command (R93). Construct is no command: it is the power-on reset (R230). -/
inductive Instr where
  /-- INIT clk, latch, rst (R130). -/
  | init (clk latch rst : Pin)
  /-- RESET (R133). -/
  | reset
  /-- SETFREQ F (R150). -/
  | setfreq (f : Operand)
  /-- UPDATE (R153). -/
  | update
  /-- CALIB X (R155). -/
  | calib (x : Operand)
  /-- PWRDN (R170). -/
  | pwrdn
  /-- PWRUP (R172). -/
  | pwrup
deriving DecidableEq, Repr

end Sys2Proof
end

