-- ==== Sys2Proof/WellFormed.lean ====
section
/-!
DEFINITION. The checks on data that comes from outside the block: a configuration (R8, R9, R121), a command (R94, R95)
and a command word (R97). The conditions on a line of assembler text (R101) stand with the assembler, in
Machine/Assembler.lean.
-/

namespace Sys2Proof

/-! ## A configuration -/

/-- OPW >= 28 + OP_FRAC and OPW >= 3 * PIN_W (R9). -/
def Config.widthsOk (c : Config) : Bool :=
  decide (28 + c.opFrac ≤ c.opW) && decide (3 * c.pinW ≤ c.opW)

/-- SCLK_HZ is one of 2, 4 and 8 MHz (R8). -/
def Config.rateOk (c : Config) : Bool :=
  c.sclkHz == 2000000 || c.sclkHz == 4000000 || c.sclkHz == 8000000

/-- T_RST_PW > 0 and T_PW > 0 (R121). -/
def Config.pulsesOk (c : Config) : Bool :=
  decide (0 < c.tRstPw) && decide (0 < c.tPw)

/-- FORBIDDEN_PINS is a set of two pin identifiers (R8). -/
def Config.pinsOk (c : Config) : Bool :=
  c.forbiddenA != c.forbiddenB && decide (c.forbiddenA < 2 ^ c.pinW) && decide (c.forbiddenB < 2 ^ c.pinW)

/-- A configuration the model takes: R9 and R121 have it refuse any other. -/
def Config.valid (c : Config) : Bool :=
  c.widthsOk && c.rateOk && c.pulsesOk && c.pinsOk

/-! ## A command -/

/-- A pin identifier has PIN_W bits (R28). -/
def Config.pinFits (c : Config) (p : Pin) : Bool := decide (p < 2 ^ c.pinW)

/-- An operand has OPW bits (R95). -/
def Config.operandFits (c : Config) (v : Operand) : Bool := decide (v < 2 ^ c.opW)

/-- The operands of a command have the widths of their encoding fields (R94, R95). -/
def Instr.wf (c : Config) : Instr → Bool
  | .init clk latch rst => c.pinFits clk && c.pinFits latch && c.pinFits rst
  | .setfreq f => c.operandFits f
  | .calib x => c.operandFits x
  | .reset => true
  | .update => true
  | .pwrdn => true
  | .pwrup => true

/-! ## A command word -/

/-- A command word that is not illegal, in the words of R97: it has CMDW bits, the opcode is none of 0x00 and 0x08 to
0xFF, RESET, UPDATE, PWRDN and PWRUP have a zero operand, and INIT's operand bits OPW-1 : 3*PIN_W are zero. Written
apart from the decoder, which follows R98. -/
def CmdWord.legal (c : Config) (w : CmdWord) : Bool :=
  let opc := w >>> c.opW
  let opnd := w - opc <<< c.opW
  let reserved := opc == 0x00 || decide (0x08 ≤ opc)
  let takesNone := opc == 0x02 || opc == 0x04 || opc == 0x06 || opc == 0x07
  let initBitsSet := opc == 0x01 && decide (2 ^ (3 * c.pinW) ≤ opnd)
  decide (w < 2 ^ c.cmdW) && !(reserved || (takesNone && opnd != 0) || initBitsSet)

end Sys2Proof
end

