-- ==== Sys2Proof/Decode.lean ====
section
/-!
DEFINITION. The command word (spec/30_encoding.md) of a build: field extraction, the decoder of R98, total on every
word, and the encoder of R93 to R96.
-/

namespace Sys2Proof

/-- Why a word is ILLEGAL (R97). -/
inductive DecodeError where
  /-- The opcode is 0x00 or in 0x08 .. 0xFF. -/
  | reservedOpcode (opc : Opcode)
  /-- RESET, UPDATE, PWRDN or PWRUP with an operand that is not 0. -/
  | operandNotZero (opc : Opcode) (opnd : Operand)
  /-- INIT with a reserved operand bit set. -/
  | reservedInitBits (opnd : Operand)
  /-- More bits than CMDW: no such word can stand on the command port (log entry 2). -/
  | tooWide (word : CmdWord)
deriving DecidableEq, Repr

/-- `v[lo + width - 1 : lo]`, as an unsigned value (R10). -/
def bitField (v lo width : Nat) : Nat := v / 2 ^ lo % 2 ^ width

/-- OPC, bits CMDW-1 : OPW (R92). -/
def opcodeField (c : Config) (w : CmdWord) : Opcode := BitVec.ofNat 8 (bitField w c.opW 8)

/-- OPND, bits OPW-1 : 0 (R92). -/
def operandField (c : Config) (w : CmdWord) : Operand := bitField w 0 c.opW

/-- CLKP, operand bits PIN_W-1 : 0 (R94). -/
def clkField (c : Config) (o : Operand) : Pin := bitField o 0 c.pinW

/-- LATP, operand bits 2*PIN_W-1 : PIN_W (R94). -/
def latchField (c : Config) (o : Operand) : Pin := bitField o c.pinW c.pinW

/-- RSTP, operand bits 3*PIN_W-1 : 2*PIN_W (R94). -/
def rstField (c : Config) (o : Operand) : Pin := bitField o (2 * c.pinW) c.pinW

/-- The reserved bits OPW-1 : 3*PIN_W of INIT's operand (R94). -/
def initReserved (c : Config) (o : Operand) : Nat := bitField o (3 * c.pinW) (c.opW - 3 * c.pinW)

/-- A command without an operand: OPND must be 0 (R96). -/
def noOperand (i : Instr) (opc : Opcode) (opnd : Operand) : Except DecodeError Instr :=
  if opnd = 0 then .ok i else .error (.operandNotZero opc opnd)

/-- The case split of R98 on OPC. -/
def decodeFields (c : Config) (opc : Opcode) (opnd : Operand) : Except DecodeError Instr :=
  if opc = 0x01 then
    if initReserved c opnd = 0 then .ok (.init (clkField c opnd) (latchField c opnd) (rstField c opnd))
    else .error (.reservedInitBits opnd)
  else if opc = 0x02 then noOperand .reset opc opnd
  else if opc = 0x03 then .ok (.setfreq opnd)
  else if opc = 0x04 then noOperand .update opc opnd
  else if opc = 0x05 then .ok (.calib opnd)
  else if opc = 0x06 then noOperand .pwrdn opc opnd
  else if opc = 0x07 then noOperand .pwrup opc opnd
  else .error (.reservedOpcode opc)

/-- The decoder of R98: total on every word. -/
def decode (c : Config) (w : CmdWord) : Except DecodeError Instr :=
  if 2 ^ c.cmdW ≤ w then .error (.tooWide w)
  else decodeFields c (opcodeField c w) (operandField c w)

/-- The opcode of each command (R93). -/
def opcodeOf : Instr → Opcode
  | .init _ _ _ => 0x01
  | .reset => 0x02
  | .setfreq _ => 0x03
  | .update => 0x04
  | .calib _ => 0x05
  | .pwrdn => 0x06
  | .pwrup => 0x07

/-- The operand of each command (R94 to R96): INIT's is {0, rst, latch, clk}. -/
def operandOf (c : Config) : Instr → Operand
  | .init clk latch rst => rst * 2 ^ (2 * c.pinW) + latch * 2 ^ c.pinW + clk
  | .setfreq f => f
  | .calib x => x
  | .reset => 0
  | .update => 0
  | .pwrdn => 0
  | .pwrup => 0

/-- The command word {OPC, OPND} (R92) of a command whose operands fit. -/
def encode (c : Config) (i : Instr) : CmdWord := (opcodeOf i).toNat * 2 ^ c.opW + operandOf c i

/-- The command word whose table bits are the low `nbits` bits of `w`, every bit above them 0. The command port
takes the word whole, so bit 0 of the table's numbering is bit 0 of CMD. -/
def tableWord (nbits w : Nat) : CmdWord := w % 2 ^ nbits

/-- What the decoder reads from an opcode-table word, in the build the table is drawn for (40-bit words, the default
widths). -/
def decodeTableWord (nbits w : Nat) : Option Instr :=
  match decode Config.default (tableWord nbits w) with
  | .ok i => some i
  | .error _ => none

end Sys2Proof
end

