-- ==== Sys2Proof/Machine/State.lean ====
section
/-!
DEFINITION. The state of the block as plain data (spec/10_state.md), the events of its trace (R12), the fault record
(R201), the ways a step stops, and the state right after power-on (R230).
-/

namespace Sys2Proof.Machine

/-- ST, the sequencer state (R30). -/
inductive SeqState where
  | uninit
  | resetting
  | active
  | poweredDown
deriving DecidableEq, Repr

/-- The output alphabet: exactly the six kinds of event of R12. -/
inductive Event where
  /-- `OE(p)`: pin `p` becomes an output, driven low. -/
  | oe (p : Pin)
  /-- `Pin(p, v)`: pin `p` is driven to `level`. -/
  | pin (p : Pin) (level : Bool)
  /-- `Hold(t)`: at least `t` passes before the next event. -/
  | hold (t : Duration)
  /-- `Begin(rate)`: the block takes the serial bus at this clock rate. -/
  | beginBus (rate : Nat)
  /-- `Byte(b)`: `b` is shifted out. -/
  | byte (b : Byte)
  /-- `End`: the block releases the bus. -/
  | endBus
deriving DecidableEq, Repr

/-- A reason of the fault record with the information it records (R201). -/
inductive FaultReason where
  /-- Code 1: an illegal command word, recorded whole. -/
  | illegalCommand (word : CmdWord)
  /-- Code 2: a command before INIT, by its opcode. -/
  | uninitializedUse (opcode : Opcode)
  /-- Code 3: INIT named a reserved pin; the first one in the order clk, lat, rst. -/
  | forbiddenPin (p : Pin)
deriving DecidableEq, Repr

/-- DRV[p], what the block does to a pin (R35). -/
inductive Drive where
  /-- Z: not driven by the block. -/
  | z
  /-- Driven to this level. -/
  | level (b : Bool)
deriving DecidableEq, Repr

/-- MOSI (R36): a level within a bit time, and no defined level outside one. -/
inductive DataLine where
  | unspecified
  | driven (b : Bool)
deriving DecidableEq, Repr

/-- How much of the reset sequence (reset pulse, one strobe pulse, one latch pulse) the reference receiver has seen
(R78). -/
inductive ResetStage where
  | idle
  | resetSeen
  | strobeSeen
deriving DecidableEq, Repr

/-- The reference receiver (R76 to R78): informative, outside the block; listed in R37 among the state the host
cannot read. -/
structure Receiver where
  /-- SR, the shift register. -/
  sr : BitVec 40
  /-- N, the bits shifted since the last latch or reset. -/
  n : Nat
  /-- DPH_ACT, the active delta phase. -/
  dphAct : BitVec 32
  /-- CTRL_ACT, the active control byte. -/
  ctrlAct : BitVec 8
  /-- The device is in power-down (R77). -/
  poweredDown : Bool
  /-- Progress of a reset sequence. -/
  stage : ResetStage
deriving DecidableEq, Repr

/-- Everything the spec gives the machine, and what the model adds (said field by field). -/
structure State where
  /-- The build parameters and straps (R8); no step changes them. -/
  cfg : Config
  /-- The command port's input (R90): the words the host presents, in order. CMD is the first, CMD_VALID says there
  is one. -/
  host : List CmdWord
  /-- VARIANT (R21). -/
  variant : Variant
  /-- CALIB (R22). -/
  calib : Operand
  /-- CTRL, the control byte (R23). -/
  ctrl : Byte
  /-- DPH, the Frequency Word (R27). -/
  dph : Phase
  /-- PIN_CLK, the clock-strobe pin (R28). -/
  pinClk : Pin
  /-- PIN_LATCH, the update-latch pin (R28). -/
  pinLatch : Pin
  /-- PIN_RST, the reset pin (R28). -/
  pinRst : Pin
  /-- ST (R30). -/
  st : SeqState
  /-- BUSY (R32). -/
  busy : Bool
  /-- SEQ, the index into the running command's event list (R29). -/
  seq : Nat
  /-- DRV (R35): the driven pins and their levels, by rising identifier; a pin not listed is Z. -/
  drv : List (Pin × Bool)
  /-- HELD: the block holds the serial bus (R36). -/
  held : Bool
  /-- SCLK, the serial clock line (R36). -/
  sclk : Bool
  /-- MOSI, the serial data line (R36). -/
  mosi : DataLine
  /-- RATE, the configured clock rate (R36). -/
  rate : Nat
  /-- The reference receiver on the far side of the pins and the bus (R76 to R78, informative). -/
  dev : Receiver
  /-- T, the output trace, oldest event first (R38, R60). -/
  trace : List Event
  /-- FAULT, the fault record (R38, R200). -/
  fault : Option FaultReason
  /-- UNDEF, the undefined-result mark (R38). -/
  undef : Bool
  /-- The model's own field, not the spec's: how many free values have been drawn (log entry 6). -/
  draws : Nat
deriving DecidableEq, Repr

/-- The ways a step ends in a fault. -/
inductive Fault where
  /-- Raised by `step` in a state whose FAULT is not empty, which takes no further step (R200). Safe: the model stops
  where the hardware may go on. -/
  | quiescent (r : FaultReason)
deriving DecidableEq, Repr

/-- The ways a step is refused. -/
inductive Refusal where
  /-- Raised by an arm of `exec` for a command without a meaning; no arm does so. Safe. -/
  | notModelled (mnemonic : String)
  /-- Raised by `step` where the configuration breaks a condition of R8, R9 or R121, which the spec has the model
  refuse. Safe: no such build exists. -/
  | invalidConfig
deriving DecidableEq, Repr

/-- The receiver before anything has reached it. The spec gives it no power-on value (log entry 10, DESIGN
CHOICE). -/
def Receiver.fresh : Receiver :=
  { sr := 0, n := 0, dphAct := 0, ctrlAct := 0, poweredDown := false, stage := .idle }

/-- PowerOnReset (R230) of a build. CALIB, CTRL, DPH and the pin registers have no value in the spec; the zeros here
are the model's (log entry 1, DESIGN CHOICE), and so are RATE, SEQ and the draw counter (log entry 9). -/
def State.powerOn (c : Config) : State where
  cfg := c
  host := []
  variant := c.variantSel
  calib := 0
  ctrl := 0
  dph := 0
  pinClk := 0
  pinLatch := 0
  pinRst := 0
  st := .uninit
  busy := false
  seq := 0
  drv := []
  held := false
  sclk := false
  mosi := .unspecified
  rate := c.sclkHz
  dev := Receiver.fresh
  trace := []
  fault := none
  undef := false
  draws := 0

/-- The machine right after reset: R230 on the default build. -/
def State.reset : State := State.powerOn Config.default

end Sys2Proof.Machine
end

