-- ==== Sys2Proof/Machine/Ops.lean ====
section
/-!
DEFINITION. The named operations over the state: pins, the trace, the fault record (the one shared way to take a
fault, R200), acceptance and completion of a command (R32, R90), and scripts, the lists of elementary actions that
the sequencer runs in order (R13, R70).
-/

namespace Sys2Proof.Machine

/-! ## Pins -/

/-- The level listed for pin `p`, if it is driven. -/
def lookupPin (p : Pin) : List (Pin × Bool) → Option Bool
  | [] => none
  | (q, v) :: rest => if p = q then some v else lookupPin p rest

/-- List pin `p` at level `v`, keeping the identifiers strictly rising. -/
def insertPin (p : Pin) (v : Bool) : List (Pin × Bool) → List (Pin × Bool)
  | [] => [(p, v)]
  | (q, u) :: rest =>
    if p < q then (p, v) :: (q, u) :: rest
    else if p = q then (p, v) :: rest
    else (q, u) :: insertPin p v rest

/-- The canonical form of DRV: identifiers strictly rising, so equal pin states are equal data. -/
def drvCanonical : List (Pin × Bool) → Bool
  | [] => true
  | [_] => true
  | (p, _) :: (q, v) :: rest => decide (p < q) && drvCanonical ((q, v) :: rest)

/-- DRV[p] (R35). -/
def State.drive (s : State) (p : Pin) : Drive :=
  match lookupPin p s.drv with
  | none => .z
  | some v => .level v

/-- DRV[p] <- v (R35). -/
def State.setPin (s : State) (p : Pin) (v : Bool) : State := { s with drv := insertPin p v s.drv }

/-! ## The trace -/

/-- `emit(e)`: append `e` to T (R11); SEQ advances by one (R29). -/
def State.emit (s : State) (e : Event) : State :=
  { s with trace := s.trace ++ [e], seq := s.seq + 1 }

/-! ## Taking a fault -/

/-- `raise Fault(reason)` (R200): FAULT takes the reason if it is empty and keeps its first one otherwise; nothing else
changes. -/
def State.raise (s : State) (r : FaultReason) : State :=
  match s.fault with
  | none => { s with fault := some r }
  | some _ => s

/-- The code of a fault reason (R201). -/
def FaultReason.code : FaultReason → Nat
  | .illegalCommand _ => 1
  | .uninitializedUse _ => 2
  | .forbiddenPin _ => 3

/-- A command that raises a fault ends with no further effect (R11, R200). There is no return from a fault: FAULT is
never cleared (R209). -/
def takeFault (r : FaultReason) (s : State) : Host.Outcome State Fault Refusal :=
  .next (s.raise r)

/-! ## Scripts -/

/-- A list of elementary actions, run in order to completion (R13, R70). -/
abbrev Script := List (State → State)

/-- Run a script. -/
def runScript : Script → State → State
  | [], s => s
  | act :: rest, s => runScript rest (act s)

/-- A command is accepted: BUSY becomes 1 and SEQ 0 (R29, R32). -/
def State.accept (s : State) : State := { s with busy := true, seq := 0 }

/-- The last event is emitted and the last register written: BUSY becomes 0 (R32). -/
def State.finish (s : State) : State := { s with busy := false }

/-- A whole command as one atomic transition (R32). -/
def complete (body : Script) (s : State) : Host.Outcome State Fault Refusal :=
  .next (runScript body s.accept).finish

/-- The state within a command after its first `k` actions: BUSY is 1 there. -/
def midCommand (body : Script) (k : Nat) (s : State) : State := runScript (body.take k) s.accept

/-- RESET, SETFREQ, UPDATE, PWRDN and PWRUP fault in ST = UNINIT before anything is written (R203). -/
def unlessUninit (i : Instr) (body : Script) (s : State) : Host.Outcome State Fault Refusal :=
  if s.st = .uninit then takeFault (.uninitializedUse (opcodeOf i)) s else complete body s

/-! ## The command port -/

/-- CMD_READY = not BUSY (R90). -/
def State.cmdReady (s : State) : Bool := !s.busy

/-- CMD_VALID (R90). -/
def State.cmdValid (s : State) : Bool := !s.host.isEmpty

/-- The command accepted next, with the state after the port has taken it: there is one when CMD_VALID and CMD_READY
are both 1 (R90). While BUSY = 1 a presented command stays presented (R91). -/
def takeCommand (s : State) : Option (CmdWord × State) :=
  if s.busy then none
  else
    match s.host with
    | [] => none
    | w :: rest => some (w, { s with host := rest })

/-- The host presents `w` ahead of all else to a port that is ready and has met no fault. -/
def presentFirst (w : CmdWord) (s : State) : State :=
  { s with host := w :: s.host, busy := false, fault := none }

end Sys2Proof.Machine
end

