-- ==== Sys2Proof/Machine/Operands.lean ====
section
/-!
DEFINITION. Operand values: the constants of R114, the frequency an operand stands for (R95, R110), and the check of
INIT's pin identifiers against FORBIDDEN_PINS (R204).
-/

namespace Sys2Proof.Machine

/-- ONE_HZ = 1 << OP_FRAC (R114). -/
def oneHz (c : Config) : Operand := 1 <<< c.opFrac

/-- The nominal calibration frequency of a variant in Hz (R8). -/
def nominalHz : Variant → Nat
  | .typeA => 125000000
  | .typeB => 180000000

/-- NOMINAL(v), in units of 2^-OP_FRAC Hz; it fits in OPW bits by R9 (R114). -/
def nominal (c : Config) (v : Variant) : Operand := nominalHz v <<< c.opFrac

/-- The frequency in Hz that an operand or CALIB stands for: its raw value over 2^OP_FRAC (R95, R110). -/
def operandHz (c : Config) (v : Operand) : Rat := (v : Rat) / 2 ^ c.opFrac

/-- Membership in FORBIDDEN_PINS (R8). -/
def isForbidden (c : Config) (p : Pin) : Bool := p == c.forbiddenA || p == c.forbiddenB

/-- The first reserved identifier in the order clk, lat, rst (R201), if there is one. -/
def firstForbidden (c : Config) (clk latch rst : Pin) : Option Pin :=
  [clk, latch, rst].find? (isForbidden c)

end Sys2Proof.Machine
end

