-- ==== Sys2Proof/Machine/Datapath.lean ====
section
/-!
DEFINITION. The delta-phase datapath (spec/40_datapath.md section 1): the exact multiply, floor and truncate of R111,
the drawn result for CALIB = 0 (R112), and a restoring divider, the algorithm R115 names as an example.
-/

namespace Sys2Proof.Machine

/-- DeltaPhase(F, C) = trunc_32(floor_div(F << 32, C)) for C ≠ 0 (R111). Nothing calls it with C = 0 (R112). -/
def deltaPhase (f c : Operand) : Phase := BitVec.ofNat 32 ((f <<< 32) / c)

/-- What SetFreqCore(F) computes with calibration `c` (R120): the delta phase, or for `c` = 0 the k-th free value
(R112). -/
def computedDph (f c : Operand) (k : Nat) : Phase := if c = 0 then Config.draw32 k else deltaPhase f c

/-- The first half of SetFreqCore(F) (R120): DPH takes the computed word, and UNDEF is set where CALIB = 0 (R112). A
computation uses up one number of the draw counter. -/
def State.loadDph (f : Operand) (s : State) : State :=
  { s with
    dph := computedDph f s.calib s.draws
    undef := s.undef || s.calib == 0
    draws := s.draws + 1 }

/-- A restoring divider's registers: partial remainder and quotient so far. -/
structure DividerState where
  rem : Nat
  quo : Nat
deriving DecidableEq, Repr

/-- One cycle of the restoring divider: shift the next dividend bit in, subtract the divisor, and restore the
remainder if it went negative. -/
def divideCycle (c : Nat) (bit : Bool) (d : DividerState) : DividerState :=
  let shifted := 2 * d.rem + bit.toNat
  if c ≤ shifted then { rem := shifted - c, quo := 2 * d.quo + 1 }
  else { rem := shifted, quo := 2 * d.quo }

/-- The divider over the low `k` bits of the dividend `a`, most significant first. -/
def divideCycles (c a : Nat) : Nat → DividerState → DividerState
  | 0, d => d
  | k + 1, d => divideCycles c a k (divideCycle c (a.testBit k) d)

/-- DeltaPhase by restoring division over OPW + 32 bits (R115). -/
def restoringDeltaPhase (opW : Nat) (f c : Operand) : Phase :=
  BitVec.ofNat 32 (divideCycles c (f <<< 32) (opW + 32) { rem := 0, quo := 0 }).quo

end Sys2Proof.Machine
end

