-- ==== Sys2Proof/Machine/Flags.lean ====
section
/-!
DEFINITION. Status. The block has no carry, overflow or zero flag (R39): its status is ST and BUSY, which the host
reads with VARIANT on the output port STAT (R34).
-/

namespace Sys2Proof.Machine

/-- The encoding of VARIANT: 0 = Type A, 1 = Type B (R2, R21). -/
def variantBit : Variant → BitVec 1
  | .typeA => 0
  | .typeB => 1

/-- The encoding of ST (R30). -/
def seqStateCode : SeqState → BitVec 2
  | .uninit => 0
  | .resetting => 1
  | .active => 2
  | .poweredDown => 3

/-- STAT = {BUSY, VARIANT, ST} (R34). -/
def State.stat (s : State) : BitVec 4 :=
  BitVec.ofBool s.busy ++ variantBit s.variant ++ seqStateCode s.st

/-- ST <- x (R30). -/
def State.setSt (x : SeqState) (s : State) : State := { s with st := x }

end Sys2Proof.Machine
end

