-- ==== Sys2Proof/Machine/Receiver.lean ====
section
/-!
DEFINITION. The reference receiver (spec/20_memory.md rules R76 to R79, informative, decision D22): what the block's
clock edges and pulses do to the shift register and the active registers of the device, and its phase accumulator.
-/

namespace Sys2Proof.Machine

/-- A rising edge of SCLK: SR <- {MOSI, SR[39:1]} and N <- N + 1 (R76). -/
def Receiver.shift (d : Receiver) (m : Bool) : Receiver :=
  { d with sr := BitVec.ofBool m ++ d.sr.extractLsb' 1 39, n := d.n + 1 }

/-- A reset pulse: the first part of the reset sequence of R78; no bit is shifted since (R76). That it starts the
sequence anew where one is under way is the model's choice (log entry 24). R69 counts the reset pulse among the events
with side effects on the receiver and R78 gives the sequence as a whole; that the shift register, the active registers
and the power mode keep their values from this pulse to the sequence's last latch pulse is the model's choice (log
entry 25). -/
def Receiver.resetPulse (d : Receiver) : Receiver := { d with n := 0, stage := .resetSeen }

/-- A clock-strobe pulse: the second part of the reset sequence (R78), at which the registers and the power mode keep
their values (log entry 25). R69 counts the strobe pulse among the events with
side effects on the receiver and names no effect of one elsewhere; that it has none outside a reset sequence, and that a
second one ends a sequence under way, are the model's choices (log entry 24). -/
def Receiver.strobePulse (d : Receiver) : Receiver :=
  match d.stage with
  | .resetSeen => { d with stage := .strobeSeen }
  | .idle => d
  | .strobeSeen => { d with stage := .idle }

/-- The active registers and the power mode as free values, the k-th drawn (log entry 7). -/
def Receiver.drawActive (d : Receiver) (k : Nat) : Receiver :=
  { d with dphAct := Config.deviceDph k, ctrlAct := Config.deviceCtrl k, poweredDown := Config.devicePowerDown k }

/-- A latch pulse that ends no reset sequence (R77): 40 bits become the active word, the byte 0x04 alone enters
power-down, no bits have no effect, and the block produces no other count. N <- 0 in every case. That it ends a reset
sequence whose strobe pulse is still to come is the model's choice (log entry 24). -/
def Receiver.commit (d : Receiver) (k : Nat) : Receiver :=
  let taken :=
    if d.n = 40 then
      { d with dphAct := d.sr.extractLsb' 0 32, ctrlAct := d.sr.extractLsb' 32 8, poweredDown := false }
    else if d.n = 8 ∧ d.sr.extractLsb' 32 8 = 0x04 then { d with poweredDown := true }
    else if d.n = 0 then d
    else d.drawActive k
  { taken with n := 0, stage := .idle }

/-- A latch pulse: the end of a reset sequence leaves N = 0 and the active registers unspecified (R78); any other is
a commit (R77). R78 does not say what a latch pulse between the reset and the strobe pulse does: that it is a commit,
which ends the sequence and leaves the active registers as R77 says, is the model's choice (log entry 24). -/
def Receiver.latchPulse (d : Receiver) (k : Nat) : Receiver :=
  match d.stage with
  | .strobeSeen => { d.drawActive k with n := 0, stage := .idle }
  | .idle => d.commit k
  | .resetSeen => d.commit k

/-- A pulse on pin `p` of a device whose inputs are wired to the pins `rst`, `clk` and `latch`: it reaches every input
wired to `p`, in the order reset, strobe, latch (log entry 11). -/
def Receiver.pulsedOn (rst clk latch p : Pin) (k : Nat) (d : Receiver) : Receiver :=
  let d1 := if p = rst then d.resetPulse else d
  let d2 := if p = clk then d1.strobePulse else d1
  if p = latch then d2.latchPulse k else d2

/-- The block's pin registers name the pins the receiver is wired to (log entry 11). A pulse uses up one number of the
draw counter. -/
def State.pulseSeen (p : Pin) (s : State) : State :=
  { s with dev := s.dev.pulsedOn s.pinRst s.pinClk s.pinLatch p s.draws, draws := s.draws + 1 }

/-- A tick of the device's reference clock: PHASE <- trunc_32(PHASE + DPH_ACT) (R79). PHASE is no field of State:
the model has no time (R244, log entry 12). -/
def Receiver.phaseTick (d : Receiver) (phase : BitVec 32) : BitVec 32 := phase + d.dphAct

/-- PHASE after `k` ticks (R79). -/
def Receiver.phaseAfter (d : Receiver) : Nat → BitVec 32 → BitVec 32
  | 0, phase => phase
  | k + 1, phase => d.phaseAfter k (d.phaseTick phase)

/-- f_out = DPH_ACT * f_ref / 2^32 (R79): the frequency of the phase accumulator. R79 and R80 give it with no condition,
and the spec does not say whether it is also the output in power-down, where R77 has the output disabled: that this
function ignores the power mode is the model's choice (log entry 23). -/
def Receiver.outputHz (d : Receiver) (refHz : Rat) : Rat := (d.dphAct.toNat : Rat) * refHz / 2 ^ 32

end Sys2Proof.Machine
end

