-- ==== Sys2Proof/Machine/Sequencer.lean ====
section
/-!
DEFINITION. The sequencer's subroutines (spec/40_datapath.md section 2): ByteOut, Pulse, UpdateSeq, SetFreqCore and
ResetSeq as scripts of elementary actions, down to the bit level of R64.
-/

namespace Sys2Proof.Machine

/-! ## The serial bus -/

/-- `emit Begin(SCLK_HZ); HELD <- 1` (R117): the bus is configured to SCLK_HZ (R36). -/
def beginBus (s : State) : State :=
  { s.emit (.beginBus s.cfg.sclkHz) with held := true, rate := s.cfg.sclkHz }

/-- `emit End; HELD <- 0` (R117). -/
def endBus (s : State) : State := { s.emit .endBus with held := false }

/-- The level a receiver samples from MOSI; a free value where the line has no defined level (R36, D23). -/
def State.sampleMosi (s : State) : Bool :=
  match s.mosi with
  | .driven b => b
  | .unspecified => Config.idleMosi s.draws

/-- `MOSI <- b` (R64). -/
def setMosi (b : Bool) (s : State) : State := { s with mosi := .driven b }

/-- `SCLK <- 1` (R64): the receiver samples MOSI while the block holds the bus (R76). -/
def raiseSclk (s : State) : State :=
  { s with sclk := true, dev := if s.held then s.dev.shift s.sampleMosi else s.dev }

/-- `SCLK <- 0` (R64). -/
def lowerSclk (s : State) : State := { s with sclk := false }

/-- Outside a bit time MOSI has no defined level (R36, R64). -/
def releaseMosi (s : State) : State := { s with mosi := .unspecified }

/-- One bit time (R64). -/
def bitOut (src : State → Byte) (i : Nat) : Script :=
  [fun s => setMosi ((src s).getLsbD i) s, raiseSclk, lowerSclk]

/-- ByteOut(b): `emit Byte(b)`, then its 8 bits, least significant first (R64, R117). `src` reads the byte from the
registers. -/
def byteOut (src : State → Byte) : Script :=
  [fun s => s.emit (.byte (src s))] ++
    (bitOut src 0 ++ bitOut src 1 ++ bitOut src 2 ++ bitOut src 3 ++
      bitOut src 4 ++ bitOut src 5 ++ bitOut src 6 ++ bitOut src 7) ++
    [releaseMosi]

/-- Byte k of DPH, lowest first: DPH[8k+7 : 8k] (R61). -/
def dphByte (k : Nat) (d : Phase) : Byte := d.extractLsb' (8 * k) 8

/-! ## Pins -/

/-- `emit OE(p)`: pin `p` becomes an output, driven low (R12, R35). -/
def outputEnable (src : State → Pin) (s : State) : State := (s.emit (.oe (src s))).setPin (src s) false

/-- `emit Pin(p, v)`: DRV[p] <- v (R35). A fall from high ends a pulse on `p`, which the receiver then acts on. -/
def drivePin (src : State → Pin) (v : Bool) (s : State) : State :=
  let p := src s
  let t := (s.emit (.pin p v)).setPin p v
  if v = false ∧ s.drive p = .level true then t.pulseSeen p else t

/-- `emit Hold(t)` (R116). -/
def holdFor (width : Config → Duration) (s : State) : State := s.emit (.hold (width s.cfg))

/-- Pulse(p, w): high, hold w, low, hold T_PW (R116). -/
def pulse (src : State → Pin) (width : Config → Duration) : Script :=
  [drivePin src true, holdFor width, drivePin src false, holdFor Config.tPw]

/-! ## Subroutines -/

/-- UpdateSeq() (R117): the frequency frame of DPH and CTRL, latched within the bus transaction. -/
def updateSeq : Script :=
  [beginBus] ++
    (byteOut (fun s => dphByte 0 s.dph) ++ byteOut (fun s => dphByte 1 s.dph) ++
      byteOut (fun s => dphByte 2 s.dph) ++ byteOut (fun s => dphByte 3 s.dph) ++
      byteOut State.ctrl) ++
    pulse State.pinLatch Config.tPw ++
    [endBus, State.setSt .active]

/-- SetFreqCore(F) (R120). The operand is read from the configuration, since ONE_HZ depends on OP_FRAC. -/
def setFreqCore (f : Config → Operand) : Script :=
  [fun s => s.loadDph (f s.cfg)] ++ updateSeq

/-- ResetSeq() (R118). -/
def resetSeq : Script :=
  [State.setSt .resetting] ++
    pulse State.pinRst Config.tRstPw ++
    pulse State.pinClk Config.tPw ++
    pulse State.pinLatch Config.tPw ++
    setFreqCore oneHz

end Sys2Proof.Machine
end

