-- ==== Sys2Proof/Machine/Frequency.lean ====
section
/-!
DEFINITION. The meanings of SETFREQ, UPDATE and CALIB (spec/42_frequency.md).
-/

namespace Sys2Proof.Machine

/-- SETFREQ F (R150). No range check (R241). -/
def execSetfreq (f : Operand) (s : State) : Host.Outcome State Fault Refusal :=
  unlessUninit (.setfreq f) (setFreqCore (fun _ => f)) s

/-- UPDATE (R153). -/
def execUpdate (s : State) : Host.Outcome State Fault Refusal := unlessUninit .update updateSeq s

/-- The one write of CALIB (R155). -/
def calibScript (x : Operand) : Script := [fun s => { s with calib := x }]

/-- CALIB X (R155), accepted in every ST. -/
def execCalib (x : Operand) (s : State) : Host.Outcome State Fault Refusal := complete (calibScript x) s

end Sys2Proof.Machine
end

