-- ==== Sys2Proof/Machine/InitReset.lean ====
section
/-!
DEFINITION. The meanings of INIT and RESET (spec/41_init_reset.md).
-/

namespace Sys2Proof.Machine

/-- The register writes of INIT before its first event (R130). -/
def initRegisters (clk latch rst : Pin) (s : State) : State :=
  { s with
    pinClk := clk
    pinLatch := latch
    pinRst := rst
    calib := nominal s.cfg s.variant
    ctrl := (variantBit s.variant).zeroExtend 8
    dph := 0 }

/-- INIT after its check (R130). -/
def initScript (clk latch rst : Pin) : Script :=
  [initRegisters clk latch rst, outputEnable State.pinClk, outputEnable State.pinLatch, outputEnable State.pinRst] ++
    resetSeq

/-- INIT (R130), accepted in every ST: ForbiddenPin if it names a reserved pin (R204), else the whole
initialization, as often as it is issued (R131). -/
def execInit (clk latch rst : Pin) (s : State) : Host.Outcome State Fault Refusal :=
  match firstForbidden s.cfg clk latch rst with
  | some p => takeFault (.forbiddenPin p) s
  | none => complete (initScript clk latch rst) s

/-- RESET (R133). -/
def execReset (s : State) : Host.Outcome State Fault Refusal := unlessUninit .reset resetSeq s

end Sys2Proof.Machine
end

