-- ==== Sys2Proof/Machine/Power.lean ====
section
/-!
DEFINITION. The meanings of PWRDN and PWRUP (spec/43_power.md).
-/

namespace Sys2Proof.Machine

/-- The power-down byte: only the power-down bit, bit 2, is set (R25, R170). -/
def powerDownByte : Byte := 0x04

/-- PWRDN's power-down frame, bracketed by latch pulses outside the bus transaction (R63, R170). -/
def pwrdnScript : Script :=
  pulse State.pinLatch Config.tPw ++
    [beginBus] ++ byteOut (fun _ => powerDownByte) ++ [endBus] ++
    pulse State.pinLatch Config.tPw ++
    [State.setSt .poweredDown]

/-- PWRDN (R170). -/
def execPwrdn (s : State) : Host.Outcome State Fault Refusal := unlessUninit .pwrdn pwrdnScript s

/-- PWRUP (R172). -/
def execPwrup (s : State) : Host.Outcome State Fault Refusal := unlessUninit .pwrup updateSeq s

end Sys2Proof.Machine
end

