-- ==== Sys2Proof/Machine/Dispatch.lean ====
section
/-!
DEFINITION. One arm per command.
-/

namespace Sys2Proof.Machine

def exec (i : Instr) (s : State) : Host.Outcome State Fault Refusal :=
  match i with
  | .init clk latch rst => Sys2Proof.Machine.execInit clk latch rst s
  | .reset => Sys2Proof.Machine.execReset s
  | .setfreq f => Sys2Proof.Machine.execSetfreq f s
  | .update => Sys2Proof.Machine.execUpdate s
  | .calib x => Sys2Proof.Machine.execCalib x s
  | .pwrdn => Sys2Proof.Machine.execPwrdn s
  | .pwrup => Sys2Proof.Machine.execPwrup s

end Sys2Proof.Machine
end

