-- ==== Sys2Proof/Machine/Step.lean ====
section
/-!
DEFINITION. One step of the block: accept the presented command, decode it and run it to completion (R32, R90).
-/

namespace Sys2Proof.Machine

/-- One step. A configuration the spec has the model refuse is refused (R9, R121). A state with a fault on record takes
no step (R200). With no command to accept the block waits (R231). An illegal word is accepted, changes nothing and
raises IllegalCommand before any other check (R97, R202). A legal one runs. -/
def step (s : State) : Host.Outcome State Fault Refusal :=
  if s.cfg.valid = false then .refused .invalidConfig
  else
    match s.fault with
    | some r => .fault (.quiescent r)
    | none =>
      match takeCommand s with
      | none => .next s
      | some (w, t) =>
        match decode t.cfg w with
        | .ok i => exec i t
        | .error _ => takeFault (.illegalCommand w) t

/-- `s` with the command word of an opcode-table row presented at the command port, ready to be accepted by the next
step (log entry 13). -/
def State.withFetchWord (s : State) (nbits w : Nat) : State := presentFirst (tableWord nbits w) s

end Sys2Proof.Machine
end

