-- ==== Sys2Proof/Machine/Assembler.lean ====
section
/-!
DEFINITION. The assembler syntax of R101: a line of text, the command line it spells, the condition on its operands and
the command word. The assembler is no part of the block; no step uses it.
-/

namespace Sys2Proof.Machine

/-- A number of a line, `digits` / 10^`places`: decimal or hexadecimal text, with a decimal point where a fraction of
a hertz is meant (log entry 14). -/
structure AsmNumber where
  digits : Nat
  places : Nat
deriving DecidableEq, Repr

/-- A line of R101. -/
inductive AsmLine where
  | init (clk latch rst : AsmNumber)
  | reset
  | setfreq (f : AsmNumber)
  | update
  | calib (f : AsmNumber)
  | pwrdn
  | pwrup
deriving DecidableEq, Repr

/-! ## Encoding a line -/

/-- The number as a whole number, scaled by 2^`shift`, if it is one. -/
def AsmNumber.scaled (n : AsmNumber) (shift : Nat) : Option Nat :=
  if (n.digits * 2 ^ shift) % 10 ^ n.places = 0 then some (n.digits * 2 ^ shift / 10 ^ n.places) else none

/-- A pin operand: in 0 .. 2^PIN_W - 1 (R101). -/
def asmPin (c : Config) (n : AsmNumber) : Option Pin :=
  match n.scaled 0 with
  | some v => if c.pinFits v then some v else none
  | none => none

/-- A frequency operand: f * 2^OP_FRAC, an integer in 0 .. 2^OPW - 1 (R101). It is never rounded. -/
def asmFrequency (c : Config) (n : AsmNumber) : Option Operand :=
  match n.scaled c.opFrac with
  | some v => if c.operandFits v then some v else none
  | none => none

/-- The command a line spells, or none where the assembler refuses it (R101). -/
def AsmLine.command (c : Config) : AsmLine → Option Instr
  | .init clk latch rst =>
    match asmPin c clk, asmPin c latch, asmPin c rst with
    | some k, some l, some r => some (.init k l r)
    | _, _, _ => none
  | .reset => some .reset
  | .setfreq f => (asmFrequency c f).map .setfreq
  | .update => some .update
  | .calib f => (asmFrequency c f).map .calib
  | .pwrdn => some .pwrdn
  | .pwrup => some .pwrup

/-- The word a line assembles to. -/
def AsmLine.assemble (c : Config) (l : AsmLine) : Option CmdWord := (l.command c).map (encode c)

/-! ## Reading text -/

/-- The value of a decimal digit. -/
def decimalDigit (ch : Char) : Option Nat :=
  if '0' ≤ ch ∧ ch ≤ '9' then some (ch.toNat - '0'.toNat) else none

/-- The value of a hexadecimal digit. -/
def hexDigit (ch : Char) : Option Nat :=
  if 'a' ≤ ch ∧ ch ≤ 'f' then some (ch.toNat - 'a'.toNat + 10)
  else if 'A' ≤ ch ∧ ch ≤ 'F' then some (ch.toNat - 'A'.toNat + 10)
  else decimalDigit ch

/-- Digits to the end of the text, in a base. -/
def readDigits (base : Nat) (digit : Char → Option Nat) : Nat → List Char → Option Nat
  | acc, [] => some acc
  | acc, ch :: rest =>
    match digit ch with
    | some d => readDigits base digit (acc * base + d) rest
    | none => none

/-- One digit or more to the end of the text. -/
def readSome (base : Nat) (digit : Char → Option Nat) (acc : Nat) (cs : List Char) : Option Nat :=
  if cs.isEmpty then none else readDigits base digit acc cs

/-- A number: `0x` and hexadecimal digits, or decimal digits with an optional fraction. -/
def readNumber : List Char → Option AsmNumber
  | '0' :: 'x' :: hex => (readSome 16 hexDigit 0 hex).map fun v => { digits := v, places := 0 }
  | cs =>
    let whole := cs.takeWhile (· != '.')
    let fraction := (cs.dropWhile (· != '.')).drop 1
    match readSome 10 decimalDigit 0 whole with
    | none => none
    | some v =>
      if cs.contains '.' then
        (readSome 10 decimalDigit v fraction).map fun u => { digits := u, places := fraction.length }
      else some { digits := v, places := 0 }

/-- A space or a tab. -/
def isBlank (ch : Char) : Bool := ch == ' ' || ch == '\t'

/-- The text without the blanks around it. -/
def trimBlanks (cs : List Char) : List Char :=
  ((cs.dropWhile isBlank).reverse.dropWhile isBlank).reverse

/-- The pieces between commas. -/
def splitCommas : List Char → List (List Char)
  | [] => [[]]
  | ',' :: rest => [] :: splitCommas rest
  | ch :: rest =>
    match splitCommas rest with
    | [] => [[ch]]
    | piece :: more => (ch :: piece) :: more

/-- The operand list of a line. -/
def readOperands (cs : List Char) : Option (List AsmNumber) :=
  if (trimBlanks cs).isEmpty then some []
  else (splitCommas cs).mapM fun piece => readNumber (trimBlanks piece)

/-- A line of text without its comment (`;` starts one): its mnemonic, then its operands (R101). None where the text
is no line of R101, the empty line among them. -/
def parseLine (text : List Char) : Option AsmLine :=
  let line := trimBlanks (text.takeWhile (· != ';'))
  let name := line.takeWhile fun ch => !isBlank ch
  match readOperands (line.dropWhile fun ch => !isBlank ch) with
  | none => none
  | some ops =>
    match ops with
    | [] =>
      if name = "RESET".toList then some .reset
      else if name = "UPDATE".toList then some .update
      else if name = "PWRDN".toList then some .pwrdn
      else if name = "PWRUP".toList then some .pwrup
      else none
    | [f] =>
      if name = "SETFREQ".toList then some (.setfreq f)
      else if name = "CALIB".toList then some (.calib f)
      else none
    | [clk, latch, rst] => if name = "INIT".toList then some (.init clk latch rst) else none
    | _ => none

end Sys2Proof.Machine
end

