-- ==== Sys2Proof/Machine/Trace.lean ====
section
/-!
DEFINITION. The event lists the spec names (R62, R63, R116, R118) and what can be read from a trace: the bus bracket
(R71), the frames and the wire bits (R65, R68), and the least duration (R242, R243).
-/

namespace Sys2Proof.Machine

/-! ## Scripts by command -/

/-- The script a command runs once it has raised no fault. -/
def commandScript : Instr → Script
  | .init clk latch rst => initScript clk latch rst
  | .reset => resetSeq
  | .setfreq f => setFreqCore fun _ => f
  | .update => updateSeq
  | .calib x => calibScript x
  | .pwrdn => pwrdnScript
  | .pwrup => updateSeq

/-! ## Event lists -/

/-- The four events of Pulse(p, w) (R116). -/
def pulseEvents (c : Config) (p : Pin) (w : Duration) : List Event :=
  [.pin p true, .hold w, .pin p false, .hold c.tPw]

/-- The five bytes of a frequency frame in transmission order (R61). -/
def frameBytes (d : Phase) (ctrl : Byte) : List Byte :=
  [dphByte 0 d, dphByte 1 d, dphByte 2 d, dphByte 3 d, ctrl]

/-- Frame5(d, c): the 11 events of a frequency frame (R62). -/
def frame5 (c : Config) (latch : Pin) (d : Phase) (ctrl : Byte) : List Event :=
  [.beginBus c.sclkHz] ++ (frameBytes d ctrl).map .byte ++ pulseEvents c latch c.tPw ++ [.endBus]

/-- FramePD: the 11 events of a power-down frame (R63). -/
def framePd (c : Config) (latch : Pin) : List Event :=
  pulseEvents c latch c.tPw ++ [.beginBus c.sclkHz, .byte powerDownByte, .endBus] ++ pulseEvents c latch c.tPw

/-- The 23 events of ResetSeq when the delta phase it computes is `d` (R118, R119). -/
def resetEvents (c : Config) (clk latch rst : Pin) (d : Phase) (ctrl : Byte) : List Event :=
  pulseEvents c rst c.tRstPw ++ pulseEvents c clk c.tPw ++ pulseEvents c latch c.tPw ++ frame5 c latch d ctrl

/-! ## Reading a trace -/

/-- The bus bracket (R71): HELD after the events, or none if the bracket is broken, from a given HELD. -/
def busScan : Option Bool → List Event → Option Bool
  | none, _ => none
  | h, [] => h
  | some h, .beginBus _ :: es => if h then none else busScan (some true) es
  | some h, .byte _ :: es => if h then busScan (some true) es else none
  | some h, .endBus :: es => if h then busScan (some false) es else none
  | some h, .oe _ :: es => busScan (some h) es
  | some h, .pin _ _ :: es => busScan (some h) es
  | some h, .hold _ :: es => busScan (some h) es

/-- The bytes of each bus transaction, in order; `open?` holds those of the transaction under way. -/
def framesFrom : Option (List Byte) → List Event → List (List Byte)
  | _, [] => []
  | none, .beginBus _ :: es => framesFrom (some []) es
  | some got, .byte b :: es => framesFrom (some (got ++ [b])) es
  | some got, .endBus :: es => got :: framesFrom none es
  | o, _ :: es => framesFrom o es

/-- The frames of a trace. -/
def frames (t : List Event) : List (List Byte) := framesFrom none t

/-- The 8 bits of a byte in the order they are shifted: least significant first (R64). -/
def byteBits (b : Byte) : List Bool := (List.range 8).map b.getLsbD

/-- The bits a receiver samples from these events, in order (R65). -/
def wireBits (t : List Event) : List Bool :=
  t.flatMap fun
    | .byte b => byteBits b
    | .oe _ => []
    | .pin _ _ => []
    | .hold _ => []
    | .beginBus _ => []
    | .endBus => []

/-- DRV[p] as these events leave it (R35), from a given drive. -/
def traceDrive (p : Pin) : Drive → List Event → Drive
  | d, [] => d
  | d, .oe q :: es => traceDrive p (if p = q then .level false else d) es
  | d, .pin q v :: es => traceDrive p (if p = q then .level v else d) es
  | d, .hold _ :: es => traceDrive p d es
  | d, .beginBus _ :: es => traceDrive p d es
  | d, .byte _ :: es => traceDrive p d es
  | d, .endBus :: es => traceDrive p d es

/-! ## Time -/

/-- The bit time B = 1 / SCLK_HZ (R243). -/
def bitTime (c : Config) : Duration := 1000000000000 / c.sclkHz

/-- The least time an event takes (R12, R64, R243). -/
def eventTime (c : Config) : Event → Duration
  | .hold t => t
  | .byte _ => 8 * bitTime c
  | .oe _ => 0
  | .pin _ _ => 0
  | .beginBus _ => 0
  | .endBus => 0

/-- The least time a list of events takes (R243). No step of the model depends on it (R244). -/
def leastTime (c : Config) (t : List Event) : Duration := (t.map (eventTime c)).sum

end Sys2Proof.Machine
end

