-- ==== Sys2Proof/Safety.lean ====
section
/-!
DEFINITION. What claims are stated in: the premise of a claim about a run (R38), and the invariants of the block
between two commands.
-/

namespace Sys2Proof.Machine

/-- FAULT empty and UNDEF false: the premise R38 puts on a claim about a command sequence. -/
def State.clean (s : State) : Prop := s.fault = none ∧ s.undef = false

/-- zext_8(VARIANT), the control byte INIT writes (R23). -/
def controlByte (v : Variant) : Byte := (variantBit v).zeroExtend 8

/-- One of the two frame shapes of R68, with the variant's control byte in a frequency frame (R122). -/
def frameShape (v : Variant) (f : List Byte) : Prop :=
  f = [powerDownByte] ∨ ∃ d : Phase, f = frameBytes d (controlByte v)

/-- What ST says of the last frame sent (R69, R174): none before INIT, the stored Control Word in ACTIVE, and the
power-down byte in POWERED_DOWN. ST is never RESETTING between commands (R33). -/
def lastFrameFits (s : State) : Prop :=
  match s.st with
  | .uninit => frames s.trace = []
  | .resetting => False
  | .active => (frames s.trace).getLast? = some (frameBytes s.dph s.ctrl)
  | .poweredDown => (frames s.trace).getLast? = some [powerDownByte]

/-- Every value of parameterised width fits its width: CALIB in OPW bits (R22), the pin registers and the driven pins
in PIN_W bits (R28, R35), the presented words in CMDW bits (R90). -/
structure State.Fits (s : State) : Prop where
  calib : s.calib < 2 ^ s.cfg.opW
  pinClk : s.pinClk < 2 ^ s.cfg.pinW
  pinLatch : s.pinLatch < 2 ^ s.cfg.pinW
  pinRst : s.pinRst < 2 ^ s.cfg.pinW
  driven : ∀ e ∈ s.drv, e.1 < 2 ^ s.cfg.pinW
  host : ∀ w ∈ s.host, w < 2 ^ s.cfg.cmdW

/-- The invariant of the block between two commands. -/
structure State.Inv (s : State) : Prop where
  /-- The values of parameterised width have their widths. -/
  fits : s.Fits
  /-- No command is under way (R32). -/
  idle : s.busy = false
  /-- The bus is released (R71). -/
  released : s.held = false
  /-- The clock idles low (R36). -/
  clockLow : s.sclk = false
  /-- MOSI has no defined level outside a bit time (R36). -/
  dataOpen : s.mosi = .unspecified
  /-- VARIANT is the strap (R21). -/
  strap : s.variant = s.cfg.variantSel
  /-- DRV is in canonical form. -/
  pinsCanonical : drvCanonical s.drv = true
  /-- DRV is what the trace made of it (R35). -/
  pinsFollowTrace : ∀ p, s.drive p = traceDrive p .z s.trace
  /-- The bus bracket holds in T and is closed (R71). -/
  bracket : busScan (some false) s.trace = some false
  /-- After INIT, CTRL is the variant's control byte (R24, R26). -/
  control : s.st ≠ .uninit → s.ctrl = controlByte s.variant
  /-- Every frame has a shape of R68, frequency frames with the variant's control byte (R122). -/
  shapes : ∀ f ∈ frames s.trace, frameShape s.variant f
  /-- ST tells the last frame (R174). -/
  last : lastFrameFits s
  /-- The receiver holds no partial frame and no partial reset sequence (R240; log entries 10, 11 and 24). -/
  wholeFrames : s.dev.n = 0 ∧ s.dev.stage = .idle

/-- After INIT the reference receiver holds the block's Control Word and its power mode, where the latch pin is not
the reset pin too (R77, log entries 11 and 24). -/
def State.ReceiverInStep (s : State) : Prop :=
  s.st ≠ .uninit → s.pinLatch ≠ s.pinRst →
    s.dev.dphAct = s.dph ∧ s.dev.ctrlAct = s.ctrl ∧ (s.dev.poweredDown = true ↔ s.st = .poweredDown)

end Sys2Proof.Machine
end

