-- ==== Sys2Proof/Certificates/Slice0/Obligations.lean ====
section
/-!
DEFINITION. The statements for the provers, in the order of the spec's files. Each docstring names the rule it states.
-/

open Sys2Proof Sys2Proof.Machine

/-! ## Encoding (spec/30_encoding.md) -/

/-- R92 to R96: in every build the decoder reads back every command the encoder writes, every operand at every value its
field admits. -/
def Obligations.DecodeEncodeRoundTrip : Prop :=
  ∀ (c : Config) (i : Instr), c.widthsOk = true → i.wf c = true → decode c (encode c i) = .ok i

/-- R92, R98: in every build a word that decodes is the encoding of what it decodes to, whose operands fit their fields,
so each word has one meaning and no bit of it is dropped. -/
def Obligations.EncodeDecodeRoundTrip : Prop :=
  ∀ (c : Config) (w : Nat) (i : Instr), c.widthsOk = true → decode c w = .ok i → encode c i = w ∧ i.wf c = true

/-- R97 against R98: in every build the decoder takes exactly the words of CMDW bits that are not illegal in the words of
R97. That it refuses every wider number, of which R97 and R98 say nothing, is the model's choice (log entry 2). -/
def Obligations.DecoderAcceptsExactlyLegalWords : Prop :=
  ∀ (c : Config) (w : Nat), c.widthsOk = true → ((∃ i, decode c w = .ok i) ↔ CmdWord.legal c w = true)

/-- Words of spec/95_test_vectors.md section 2.2 and R101, one for each command and each kind of illegal word, in the
builds of the vectors: OPW = 32, PIN_W = 8. -/
def Obligations.VectorWordsDecodeAsListed : Prop :=
  ∀ c : Config, c.opW = 32 → c.pinW = 8 →
    decode c 0x01000A0908 = .ok (.init 8 9 10) ∧ decode c 0x0200000000 = .ok .reset ∧
    decode c 0x03FFFFFFFF = .ok (.setfreq 4294967295) ∧ decode c 0x0300989680 = .ok (.setfreq 10000000) ∧
    decode c 0x0400000000 = .ok .update ∧ decode c 0x050ABA9118 = .ok (.calib 179999000) ∧
    decode c 0x0600000000 = .ok .pwrdn ∧ decode c 0x0700000000 = .ok .pwrup ∧
    decode c 0x01010A0908 = .error (.reservedInitBits 0x010A0908) ∧
    decode c 0x0200000001 = .error (.operandNotZero 0x02 1) ∧
    decode c 0x0000000000 = .error (.reservedOpcode 0x00) ∧ decode c 0x0800000000 = .error (.reservedOpcode 0x08)

/-- R101: in every build, what each line of the assembler syntax encodes, and that a line is refused exactly when an
operand does not meet its condition (a pin in 0 .. 2^PIN_W - 1; a frequency whose f * 2^OP_FRAC is a whole number in
0 .. 2^OPW - 1). Numbers may have a decimal point (log entry 14). -/
def Obligations.AssemblerEncodesOrRefuses : Prop :=
  ∀ c : Config,
    (∀ k l r : Nat,
      (AsmLine.init ⟨k, 0⟩ ⟨l, 0⟩ ⟨r, 0⟩).assemble c =
        if k < 2 ^ c.pinW ∧ l < 2 ^ c.pinW ∧ r < 2 ^ c.pinW then
          some (0x01 * 2 ^ c.opW + (r * 2 ^ (2 * c.pinW) + l * 2 ^ c.pinW + k))
        else none) ∧
    (∀ (n : AsmNumber) (v : Nat), v * 10 ^ n.places = n.digits * 2 ^ c.opFrac → v < 2 ^ c.opW →
      (AsmLine.setfreq n).assemble c = some (0x03 * 2 ^ c.opW + v) ∧
      (AsmLine.calib n).assemble c = some (0x05 * 2 ^ c.opW + v)) ∧
    (∀ n : AsmNumber, (∀ v : Nat, v < 2 ^ c.opW → v * 10 ^ n.places ≠ n.digits * 2 ^ c.opFrac) →
      (AsmLine.setfreq n).assemble c = none ∧ (AsmLine.calib n).assemble c = none) ∧
    AsmLine.reset.assemble c = some (0x02 * 2 ^ c.opW) ∧ AsmLine.update.assemble c = some (0x04 * 2 ^ c.opW) ∧
    AsmLine.pwrdn.assemble c = some (0x06 * 2 ^ c.opW) ∧ AsmLine.pwrup.assemble c = some (0x07 * 2 ^ c.opW)

/-! ## Power-on, the command port and the step -/

/-- R230: what PowerOnReset sets, for every build. The registers R230 gives no value are not mentioned. -/
def Obligations.PowerOnSetsWhatTheSpecSets : Prop :=
  ∀ c : Config, let s := State.powerOn c
    s.variant = c.variantSel ∧ s.st = .uninit ∧ s.busy = false ∧ s.held = false ∧ s.sclk = false ∧
    (∀ p, s.drive p = .z) ∧ s.mosi = .unspecified ∧ s.trace = [] ∧ s.fault = none ∧ s.undef = false

/-- R34, R30, R21: STAT = {BUSY, VARIANT, ST}, bit by bit, with the four codes of ST, and its power-on value
{0, VARIANT_SEL, 0b00}. -/
def Obligations.StatShowsBusyVariantAndState : Prop :=
  (∀ s : State, s.stat.getLsbD 3 = s.busy ∧ (s.stat.getLsbD 2 = true ↔ s.variant = .typeB) ∧
    (s.st = .uninit → s.stat.extractLsb' 0 2 = 0) ∧ (s.st = .resetting → s.stat.extractLsb' 0 2 = 1) ∧
    (s.st = .active → s.stat.extractLsb' 0 2 = 2) ∧ (s.st = .poweredDown → s.stat.extractLsb' 0 2 = 3)) ∧
  ∀ c : Config, (c.variantSel = .typeA → (State.powerOn c).stat = 0b0000) ∧
    (c.variantSel = .typeB → (State.powerOn c).stat = 0b0100)

/-- R90, R98: a step in a build the model takes, with no fault on record, BUSY = 0 and a legal word presented, is the
command run on the state whose port has taken the word. -/
def Obligations.StepRunsTheDecodedCommand : Prop :=
  ∀ (s : State) (w : CmdWord) (rest : List CmdWord) (i : Instr),
    s.cfg.valid = true → s.fault = none → s.busy = false → s.host = w :: rest → decode s.cfg w = .ok i →
      step s = exec i { s with host := rest }

/-- R97, R202: an illegal word is taken from the port, changes no register, emits no event, leaves ST, and is
recorded whole in FAULT; it wins over every other check. That a number of more than CMDW bits counts as such a word is
the model's choice (log entry 2). -/
def Obligations.IllegalWordOnlyRecordsItself : Prop :=
  ∀ (s : State) (w : CmdWord) (rest : List CmdWord),
    s.cfg.valid = true → s.fault = none → s.busy = false → s.host = w :: rest → w.legal s.cfg = false →
      step s = .next { s with host := rest, fault := some (.illegalCommand w) }

/-- R90, R91, R231: with nothing presented, or with BUSY = 1, the step changes nothing: a presented command stays
presented. -/
def Obligations.PortTakesNothingUnlessReady : Prop :=
  ∀ s : State, s.cfg.valid = true → s.fault = none → (s.busy = true ∨ s.host = []) → step s = .next s

/-- R200: a state with FAULT not empty takes no further step; the model answers a fault (log entry 15). -/
def Obligations.FaultedStateIsQuiescent : Prop :=
  ∀ (s : State) (r : FaultReason), s.cfg.valid = true → s.fault = some r → step s = .fault (.quiescent r)

/-- R9, R121: a configuration that breaks OPW >= 28 + OP_FRAC or OPW >= 3 * PIN_W, or has a pulse width of 0, is
refused; that every step refuses it, and the refusal's name, are the model's (log entry 18). -/
def Obligations.BadConfigurationIsRefused : Prop :=
  ∀ s : State,
    (s.cfg.opW < 28 + s.cfg.opFrac ∨ s.cfg.opW < 3 * s.cfg.pinW ∨ s.cfg.tRstPw = 0 ∨ s.cfg.tPw = 0) →
      step s = .refused .invalidConfig

/-- The host's placement of a table word (log entry 13): the next step runs the command the word decodes to, from every
state of a build the model takes; in a build with the table's widths that is the command `decodeTableWord` reads. -/
def Obligations.PresentedTableWordRunsNext : Prop :=
  ∀ (s : State) (nbits w : Nat) (i : Instr), s.cfg.valid = true →
    (decode s.cfg (tableWord nbits w) = .ok i ∨
      s.cfg.opW = 32 ∧ s.cfg.pinW = 8 ∧ decodeTableWord nbits w = some i) →
    step (s.withFetchWord nbits w) = exec i { s with busy := false, fault := none }

/-! ## Faults (spec/60_exceptions.md) -/

/-- R203: RESET, SETFREQ, UPDATE, PWRDN and PWRUP in ST = UNINIT record UninitializedUse with their opcode and change
nothing else; INIT and CALIB never record it. -/
def Obligations.UninitializedUseChangesNothing : Prop :=
  (∀ (s : State) (f : Operand), s.st = .uninit → s.fault = none →
    exec .reset s = .next { s with fault := some (.uninitializedUse 0x02) } ∧
    exec (.setfreq f) s = .next { s with fault := some (.uninitializedUse 0x03) } ∧
    exec .update s = .next { s with fault := some (.uninitializedUse 0x04) } ∧
    exec .pwrdn s = .next { s with fault := some (.uninitializedUse 0x06) } ∧
    exec .pwrup s = .next { s with fault := some (.uninitializedUse 0x07) }) ∧
  ∀ (s t : State) (clk latch rst : Pin) (x : Operand) (opc : Opcode), s.fault = none →
    (exec (.init clk latch rst) s = .next t ∨ exec (.calib x) s = .next t) → t.fault ≠ some (.uninitializedUse opc)

/-- R201, R204: INIT with a reserved pin records ForbiddenPin with the first one in the order clk, lat, rst and changes
nothing else, in every ST. -/
def Obligations.ForbiddenPinChangesNothing : Prop :=
  ∀ (s : State) (clk latch rst : Pin), s.fault = none →
    let bad := fun p => p = s.cfg.forbiddenA ∨ p = s.cfg.forbiddenB
    (bad clk → exec (.init clk latch rst) s = .next { s with fault := some (.forbiddenPin clk) }) ∧
    (¬bad clk → bad latch → exec (.init clk latch rst) s = .next { s with fault := some (.forbiddenPin latch) }) ∧
    (¬bad clk → ¬bad latch → bad rst →
      exec (.init clk latch rst) s = .next { s with fault := some (.forbiddenPin rst) })

/-- R200, R209: no command and no step clears FAULT or replaces its first reason. -/
def Obligations.FirstFaultIsKept : Prop :=
  (∀ (i : Instr) (s t : State) (r : FaultReason), exec i s = .next t → s.fault = some r → t.fault = some r) ∧
  ∀ (s t : State), step s = .next t → s.fault = none

/-- R205, R38: UNDEF is sticky, and what sets it is a delta phase computed with CALIB = 0, by RESET or SETFREQ after
INIT; division by zero is no fault. -/
def Obligations.UndefMarksCalibrationZero : Prop :=
  ∀ (i : Instr) (s t : State), exec i s = .next t →
    (t.undef = true ↔
      s.undef = true ∨ (s.st ≠ .uninit ∧ s.calib = 0 ∧ (i = .reset ∨ ∃ f, i = .setfreq f))) ∧
    (s.undef = false → t.undef = true → t.fault = s.fault)

/-! ## The meanings (spec/41_init_reset.md, 42_frequency.md, 43_power.md) -/

/-- R130, R114: INIT, in every ST and however often: with no reserved pin it completes with every register, event and
pin level of R130 (26 events), NOMINAL and ONE_HZ scaled by OP_FRAC and, in a build the model takes, within OPW bits;
with a reserved pin it raises ForbiddenPin. -/
def Obligations.InitMeaning : Prop :=
  ∀ (clk latch rst : Pin) (s : State),
    encode s.cfg (.init clk latch rst) =
      0x01 * 2 ^ s.cfg.opW + (rst * 2 ^ (2 * s.cfg.pinW) + latch * 2 ^ s.cfg.pinW + clk) ∧
    (∀ p, firstForbidden s.cfg clk latch rst = some p →
      exec (.init clk latch rst) s = .next (s.raise (.forbiddenPin p))) ∧
    (isForbidden s.cfg clk = false → isForbidden s.cfg latch = false → isForbidden s.cfg rst = false →
      ∃ t, exec (.init clk latch rst) s = .next t ∧
        t.pinClk = clk ∧ t.pinLatch = latch ∧ t.pinRst = rst ∧
        (s.variant = .typeA → t.calib = 125000000 * 2 ^ s.cfg.opFrac ∧ t.ctrl = 0x00) ∧
        (s.variant = .typeB → t.calib = 180000000 * 2 ^ s.cfg.opFrac ∧ t.ctrl = 0x01) ∧
        (s.cfg.valid = true → t.calib < 2 ^ s.cfg.opW) ∧
        t.dph = deltaPhase (2 ^ s.cfg.opFrac) t.calib ∧ t.st = .active ∧
        t.trace = s.trace ++ [.oe clk, .oe latch, .oe rst] ++ resetEvents s.cfg clk latch rst t.dph t.ctrl ∧
        t.trace.length = s.trace.length + 26 ∧
        t.drive clk = .level false ∧ t.drive latch = .level false ∧ t.drive rst = .level false ∧
        t.fault = s.fault ∧ t.held = false ∧ t.busy = false ∧ t.sclk = false ∧ t.mosi = .unspecified)

/-- R133, R114: RESET reloads the device with the word of 1 Hz (2^OP_FRAC) at the current calibration (23 events), and
leaves CALIB, CTRL and the pins. -/
def Obligations.ResetMeaning : Prop :=
  ∀ s : State,
    encode s.cfg .reset = 0x02 * 2 ^ s.cfg.opW ∧
    (s.st = .uninit → exec .reset s = .next (s.raise (.uninitializedUse 0x02))) ∧
    (s.st ≠ .uninit → ∃ t, exec .reset s = .next t ∧
      (s.calib ≠ 0 → t.dph = deltaPhase (2 ^ s.cfg.opFrac) s.calib ∧ t.undef = s.undef) ∧
      (s.calib = 0 → (∃ k, t.dph = Config.draw32 k) ∧ t.undef = true) ∧
      t.st = .active ∧ t.calib = s.calib ∧ t.ctrl = s.ctrl ∧
      t.pinClk = s.pinClk ∧ t.pinLatch = s.pinLatch ∧ t.pinRst = s.pinRst ∧
      t.trace = s.trace ++ resetEvents s.cfg s.pinClk s.pinLatch s.pinRst t.dph s.ctrl ∧
      t.trace.length = s.trace.length + 23 ∧
      t.drive s.pinClk = .level false ∧ t.drive s.pinLatch = .level false ∧ t.drive s.pinRst = .level false ∧
      t.fault = s.fault ∧ t.held = false ∧ t.busy = false ∧ t.sclk = false ∧ t.mosi = .unspecified)

/-- R150: SETFREQ computes, stores and sends the delta phase (11 events); with CALIB = 0 the word is a free value and
UNDEF is set; no operand is checked. -/
def Obligations.SetfreqMeaning : Prop :=
  ∀ (f : Operand) (s : State),
    encode s.cfg (.setfreq f) = 0x03 * 2 ^ s.cfg.opW + f ∧
    (s.st = .uninit → exec (.setfreq f) s = .next (s.raise (.uninitializedUse 0x03))) ∧
    (s.st ≠ .uninit → ∃ t, exec (.setfreq f) s = .next t ∧
      (s.calib ≠ 0 → t.dph = deltaPhase f s.calib ∧ t.undef = s.undef) ∧
      (s.calib = 0 → (∃ k, t.dph = Config.draw32 k) ∧ t.undef = true) ∧
      t.st = .active ∧ t.calib = s.calib ∧ t.ctrl = s.ctrl ∧
      t.pinClk = s.pinClk ∧ t.pinLatch = s.pinLatch ∧ t.pinRst = s.pinRst ∧
      t.trace = s.trace ++ frame5 s.cfg s.pinLatch t.dph s.ctrl ∧ t.trace.length = s.trace.length + 11 ∧
      t.fault = s.fault ∧ t.drive s.pinLatch = .level false ∧
      t.held = false ∧ t.busy = false ∧ t.sclk = false ∧ t.mosi = .unspecified)

/-- R153: UPDATE sends the stored Control Word (11 events) and makes ST ACTIVE. -/
def Obligations.UpdateMeaning : Prop :=
  ∀ s : State,
    encode s.cfg .update = 0x04 * 2 ^ s.cfg.opW ∧
    (s.st = .uninit → exec .update s = .next (s.raise (.uninitializedUse 0x04))) ∧
    (s.st ≠ .uninit → ∃ t, exec .update s = .next t ∧
      t.st = .active ∧ t.dph = s.dph ∧ t.ctrl = s.ctrl ∧ t.calib = s.calib ∧
      t.trace = s.trace ++ frame5 s.cfg s.pinLatch s.dph s.ctrl ∧ t.trace.length = s.trace.length + 11 ∧
      t.drive s.pinLatch = .level false ∧
      t.fault = s.fault ∧ t.held = false ∧ t.busy = false ∧ t.sclk = false ∧ t.mosi = .unspecified)

/-- R155: CALIB writes CALIB and nothing else, in every ST, with no event and no fault; a SETFREQ that follows it uses
the new value. SEQ is meaningless after a command (R29) and left open here. -/
def Obligations.CalibMeaning : Prop :=
  ∀ (x : Operand) (s : State),
    encode s.cfg (.calib x) = 0x05 * 2 ^ s.cfg.opW + x ∧
    (∃ t, exec (.calib x) s = .next t ∧ t = { s with calib := x, busy := false, seq := t.seq }) ∧
    ∀ (f : Operand) (t u : State), exec (.calib x) s = .next t → s.st ≠ .uninit → x ≠ 0 →
      exec (.setfreq f) t = .next u → u.dph = deltaPhase f x

/-- R170: PWRDN sends the one byte 0x04 between two latch pulses outside the bus transaction (11 events), for both
variants, and alters no register but ST. -/
def Obligations.PwrdnMeaning : Prop :=
  ∀ s : State,
    encode s.cfg .pwrdn = 0x06 * 2 ^ s.cfg.opW ∧
    (s.st = .uninit → exec .pwrdn s = .next (s.raise (.uninitializedUse 0x06))) ∧
    (s.st ≠ .uninit → ∃ t, exec .pwrdn s = .next t ∧
      t.st = .poweredDown ∧ t.dph = s.dph ∧ t.ctrl = s.ctrl ∧ t.calib = s.calib ∧
      t.pinClk = s.pinClk ∧ t.pinLatch = s.pinLatch ∧ t.pinRst = s.pinRst ∧
      t.trace = s.trace ++ pulseEvents s.cfg s.pinLatch s.cfg.tPw ++
        [.beginBus s.cfg.sclkHz, .byte 0x04, .endBus] ++ pulseEvents s.cfg s.pinLatch s.cfg.tPw ∧
      t.trace.length = s.trace.length + 11 ∧ t.drive s.pinLatch = .level false ∧
      t.fault = s.fault ∧ t.held = false ∧ t.busy = false ∧ t.sclk = false ∧ t.mosi = .unspecified)

/-- R172: PWRUP re-sends the stored Control Word (11 events) and makes ST ACTIVE; with R154 (c), it is UPDATE but for
the opcode its fault records. -/
def Obligations.PwrupMeaning : Prop :=
  ∀ s : State,
    encode s.cfg .pwrup = 0x07 * 2 ^ s.cfg.opW ∧
    (s.st = .uninit → exec .pwrup s = .next (s.raise (.uninitializedUse 0x07))) ∧
    (s.st ≠ .uninit → exec .pwrup s = exec .update s ∧ ∃ t, exec .pwrup s = .next t ∧
      t.st = .active ∧ t.dph = s.dph ∧ t.ctrl = s.ctrl ∧ t.calib = s.calib ∧
      t.trace = s.trace ++ frame5 s.cfg s.pinLatch s.dph s.ctrl ∧ t.trace.length = s.trace.length + 11 ∧
      t.drive s.pinLatch = .level false ∧
      t.fault = s.fault ∧ t.held = false ∧ t.busy = false ∧ t.sclk = false ∧ t.mosi = .unspecified)

/-- R132, the worked example: `INIT 8, 9, 10` on both variants, in builds of the default widths
that do not reserve those pins. The word it encodes as, the registers and the last frame. -/
def Obligations.InitWorkedExample : Prop :=
  ∀ s : State, s.cfg.opW = 32 → s.cfg.pinW = 8 → s.cfg.opFrac = 0 → firstForbidden s.cfg 8 9 10 = none →
    decode s.cfg 0x01000A0908 = .ok (.init 8 9 10) ∧ ∃ t, exec (.init 8 9 10) s = .next t ∧
      t.pinClk = 8 ∧ t.pinLatch = 9 ∧ t.pinRst = 10 ∧ t.st = .active ∧
      (s.variant = .typeA → t.calib = 125000000 ∧ t.ctrl = 0x00 ∧ t.dph = 34 ∧
        ∃ before, t.trace = before ++ frame5 s.cfg 9 0x00000022 0x00) ∧
      (s.variant = .typeB → t.calib = 180000000 ∧ t.ctrl = 0x01 ∧ t.dph = 23 ∧
        ∃ before, t.trace = before ++ frame5 s.cfg 9 0x00000017 0x01)

/-- R152, the source's worked example: 10 MHz at CALIB = 125 000 000 sends 0x47, 0xE1, 0x7A, 0x14 and the control
byte, then the latch pulse. -/
def Obligations.SetfreqWorkedExample : Prop :=
  ∀ s : State, s.cfg.opW = 32 → s.st ≠ .uninit → s.calib = 125000000 → s.ctrl = 0x00 →
    decode s.cfg 0x0300989680 = .ok (.setfreq 10000000) ∧ ∃ t, exec (.setfreq 10000000) s = .next t ∧
      t.dph = 343597383 ∧
      t.trace = s.trace ++ [.beginBus s.cfg.sclkHz, .byte 0x47, .byte 0xE1, .byte 0x7A, .byte 0x14, .byte 0x00] ++
        pulseEvents s.cfg s.pinLatch s.cfg.tPw ++ [.endBus]

/-- R151 (a) to (g): the corner cases of SETFREQ: F = 0, F = CALIB, CALIB < F (the wrap, with the example of (c)),
F = CALIB - 1 (the largest word below CALIB), CALIB = 0, any ST but UNINIT, and the same F twice. -/
def Obligations.SetfreqCornerCases : Prop :=
  ∀ (f : Operand) (s : State), s.st ≠ .uninit → ∃ t, exec (.setfreq f) s = .next t ∧
    t.st = .active ∧ t.trace = s.trace ++ frame5 s.cfg s.pinLatch t.dph s.ctrl ∧
    (s.calib = 0 → (∃ k, t.dph = Config.draw32 k) ∧ t.undef = true) ∧
    (s.calib ≠ 0 →
      (f = 0 → t.dph = 0 ∧ frameBytes t.dph s.ctrl = [0x00, 0x00, 0x00, 0x00, s.ctrl]) ∧
      (f = s.calib → t.dph = 0) ∧
      (s.calib < f → t.dph = deltaPhase (f % s.calib) s.calib ∧ t.fault = s.fault) ∧
      (f = s.calib - 1 → t.dph.toNat = 2 ^ 32 - (2 ^ 32 + s.calib - 1) / s.calib ∧
        ∀ g : Nat, g < s.calib → (deltaPhase g s.calib).toNat ≤ t.dph.toNat) ∧
      (s.calib = 125000000 → f = 130000000 → t.dph = 0x0A3D70A3 ∧ t.dph = deltaPhase 5000000 s.calib) ∧
      ∃ u, exec (.setfreq f) t = .next u ∧ u.dph = t.dph ∧
        u.trace = t.trace ++ frame5 s.cfg s.pinLatch t.dph s.ctrl)

/-- R156 (c), (d): of two CALIB commands the last wins; and the worked example `CALIB 179999000`, then
`SETFREQ 1000000`, of a Type B block. -/
def Obligations.CalibCornerCases : Prop :=
  (∀ (x y : Operand) (s : State), ∃ t u, exec (.calib x) s = .next t ∧ exec (.calib y) t = .next u ∧ u.calib = y ∧
    exec (.calib y) s = .next u) ∧
  ∀ s : State, s.cfg.opW = 32 → s.st ≠ .uninit → s.ctrl = 0x01 →
    decode s.cfg 0x050ABA9118 = .ok (.calib 179999000) ∧ ∃ t u, exec (.calib 179999000) s = .next t ∧
      t.calib = 179999000 ∧ t.trace = s.trace ∧
      exec (.setfreq 1000000) t = .next u ∧ u.dph = 23861061 ∧ u.dph = 0x016C1745 ∧
      u.trace = s.trace ++ [.beginBus s.cfg.sclkHz, .byte 0x45, .byte 0x17, .byte 0x6C, .byte 0x01, .byte 0x01] ++
        pulseEvents s.cfg s.pinLatch s.cfg.tPw ++ [.endBus]

/-! ## Frames: what a command leaves as it was -/

/-- R20 to R28, R35: UPDATE, PWRUP and PWRDN write no register but ST and the bus state, and drive no pin but the
latch pin. -/
def Obligations.FrameOfUpdatePwrupPwrdn : Prop :=
  ∀ (i : Instr) (s t : State), i = .update ∨ i = .pwrup ∨ i = .pwrdn → exec i s = .next t →
    t.cfg = s.cfg ∧ t.host = s.host ∧ t.variant = s.variant ∧ t.calib = s.calib ∧ t.ctrl = s.ctrl ∧ t.dph = s.dph ∧
    t.pinClk = s.pinClk ∧ t.pinLatch = s.pinLatch ∧ t.pinRst = s.pinRst ∧ t.undef = s.undef ∧
    (s.st ≠ .uninit → t.fault = s.fault) ∧ (∀ p, p ≠ s.pinLatch → t.drive p = s.drive p) ∧
    (s.st = .uninit → t = { s with fault := t.fault })

/-- The same for SETFREQ, which also writes DPH, and UNDEF where CALIB = 0. -/
def Obligations.FrameOfSetfreq : Prop :=
  ∀ (f : Operand) (s t : State), exec (.setfreq f) s = .next t →
    t.cfg = s.cfg ∧ t.host = s.host ∧ t.variant = s.variant ∧ t.calib = s.calib ∧ t.ctrl = s.ctrl ∧
    t.pinClk = s.pinClk ∧ t.pinLatch = s.pinLatch ∧ t.pinRst = s.pinRst ∧ (s.calib ≠ 0 → t.undef = s.undef) ∧
    (s.st ≠ .uninit → t.fault = s.fault) ∧ (∀ p, p ≠ s.pinLatch → t.drive p = s.drive p) ∧
    (s.st = .uninit → t = { s with fault := t.fault })

/-- The same for RESET, which also writes DPH and drives all three pins. -/
def Obligations.FrameOfReset : Prop :=
  ∀ s t : State, exec .reset s = .next t →
    t.cfg = s.cfg ∧ t.host = s.host ∧ t.variant = s.variant ∧ t.calib = s.calib ∧ t.ctrl = s.ctrl ∧
    t.pinClk = s.pinClk ∧ t.pinLatch = s.pinLatch ∧ t.pinRst = s.pinRst ∧ (s.calib ≠ 0 → t.undef = s.undef) ∧
    (s.st ≠ .uninit → t.fault = s.fault) ∧
    (∀ p, p ≠ s.pinClk → p ≠ s.pinLatch → p ≠ s.pinRst → t.drive p = s.drive p) ∧
    (s.st = .uninit → t = { s with fault := t.fault })

/-- R131 (a), R35, R232: INIT leaves VARIANT, UNDEF and, with no reserved pin, FAULT; pins it does not name stay at
their last level, those of an earlier INIT among them. -/
def Obligations.FrameOfInit : Prop :=
  ∀ (clk latch rst : Pin) (s t : State), exec (.init clk latch rst) s = .next t →
    t.cfg = s.cfg ∧ t.host = s.host ∧ t.variant = s.variant ∧ t.undef = s.undef ∧
    (firstForbidden s.cfg clk latch rst = none → t.fault = s.fault) ∧
    (∀ p, p ≠ clk → p ≠ latch → p ≠ rst → t.drive p = s.drive p) ∧
    (firstForbidden s.cfg clk latch rst ≠ none → t = { s with fault := t.fault })

/-! ## Whole-machine rules -/

/-- R20 to R28: each register is written only by the commands its rule names, and VARIANT by none. -/
def Obligations.RegistersHaveOnlyTheirWriters : Prop :=
  ∀ (i : Instr) (s t : State), exec i s = .next t →
    t.cfg = s.cfg ∧ t.variant = s.variant ∧
    (t.calib ≠ s.calib → (∃ c l r, i = .init c l r) ∨ ∃ x, i = .calib x) ∧
    (t.ctrl ≠ s.ctrl → ∃ c l r, i = .init c l r) ∧
    (t.pinClk ≠ s.pinClk ∨ t.pinLatch ≠ s.pinLatch ∨ t.pinRst ≠ s.pinRst → ∃ c l r, i = .init c l r) ∧
    (t.dph ≠ s.dph → (∃ c l r, i = .init c l r) ∨ i = .reset ∨ ∃ f, i = .setfreq f) ∧
    (t.st ≠ s.st → ∀ x, i ≠ .calib x)

/-- R31: the transition table of ST, a command that faults leaving it. -/
def Obligations.SequencerStateTransitions : Prop :=
  ∀ (i : Instr) (s t : State), exec i s = .next t →
    match i with
    | .init clk latch rst =>
      (firstForbidden s.cfg clk latch rst = none → t.st = .active) ∧
      (firstForbidden s.cfg clk latch rst ≠ none → t.st = s.st)
    | .reset => t.st = if s.st = .uninit then .uninit else .active
    | .setfreq _ => t.st = if s.st = .uninit then .uninit else .active
    | .update => t.st = if s.st = .uninit then .uninit else .active
    | .calib _ => t.st = s.st
    | .pwrdn => t.st = if s.st = .uninit then .uninit else .poweredDown
    | .pwrup => t.st = if s.st = .uninit then .uninit else .active

/-- R60, R119: every step only appends to T, and a command that raises no fault appends as many events as R119 counts
(INIT 26, RESET 23, CALIB 0, the others 11); the event lists have the lengths R119 gives. -/
def Obligations.EventCounts : Prop :=
  (∀ (i : Instr) (s t : State), exec i s = .next t → t.fault = none →
    ∃ es, t.trace = s.trace ++ es ∧ es.length =
      match i with
      | .init _ _ _ => 26
      | .reset => 23
      | .setfreq _ => 11
      | .update => 11
      | .calib _ => 0
      | .pwrdn => 11
      | .pwrup => 11) ∧
  ∀ (c : Config) (p q r : Pin) (w : Duration) (d : Phase) (b : Byte),
    (pulseEvents c p w).length = 4 ∧ (frame5 c p d b).length = 11 ∧ (framePd c p).length = 11 ∧
    (resetEvents c p q r d b).length = 23

/-- R60: events are never removed or reordered: every step leaves the trace it found at the head of T. -/
def Obligations.TraceOnlyGrows : Prop :=
  ∀ s t : State, step s = .next t → ∃ es, t.trace = s.trace ++ es

/-- R20, R71, R122, R174, R35, R33: the invariant holds after power-on, of every build. That the receiver starts with no
bits shifted is the model's (log entry 10), and so is that CALIB and the pin registers, to which R20 and R230 give no
value, lie below 2 to their widths: that rests on the zeros of log entry 1. -/
def Obligations.PowerOnMeetsInvariant : Prop :=
  (∀ c : Config, (State.powerOn c).Inv) ∧ State.reset.Inv

/-- The invariant of Safety.lean is kept by every step from every state that meets it. Its last clause is about the
informative receiver (log entries 11 and 24). -/
def Obligations.StepKeepsInvariant : Prop :=
  ∀ s t : State, s.Inv → step s = .next t → t.Inv

/-- R77, R69 (informative receiver, decision D22; log entries 7, 11 and 24): after every step the reference receiver holds
the block's stored Control Word and the power mode ST tells, where the latch pin is not the reset pin too. -/
def Obligations.StepKeepsReceiverInStep : Prop :=
  ∀ s t : State, s.Inv → s.ReceiverInStep → step s = .next t → t.ReceiverInStep

/-- R68, R214: no operation reads anything from the receiving device: whatever the receiver holds, a command does the
same to everything else. With CALIB = 0 the two runs draw the same word only because the model draws by a counter in
State (log entry 6): that equality is the model's choice, not a rule. -/
def Obligations.BlockNeverReadsTheReceiver : Prop :=
  ∀ (i : Instr) (s t : State) (d : Receiver), exec i s = .next t →
    ∃ d', exec i { s with dev := d } = .next { t with dev := d' }

/-- R113 (g), R20: the registers and the events of a command do not depend on the trace so far, on DRV, on the bus lines
and the bus state, or on what else the host presents. With CALIB = 0 the two runs draw the same word only because the
model draws by a counter in State (log entry 6): that equality is the model's choice, not a rule. -/
def Obligations.CommandsIgnorePastOutput : Prop :=
  ∀ (i : Instr) (s t : State) (h : List CmdWord) (past : List Event) (pins : List (Pin × Bool)) (m : DataLine)
    (clock held : Bool) (rate : Nat),
    exec i s = .next t → ∃ (t' : State) (es : List Event),
      exec i { s with host := h, trace := past, drv := pins, mosi := m, sclk := clock, held := held, rate := rate } =
        .next t' ∧
      t.trace = s.trace ++ es ∧ t'.trace = past ++ es ∧
      t'.dph = t.dph ∧ t'.ctrl = t.ctrl ∧ t'.calib = t.calib ∧ t'.st = t.st ∧ t'.variant = t.variant ∧
      t'.pinClk = t.pinClk ∧ t'.pinLatch = t.pinLatch ∧ t'.pinRst = t.pinRst ∧ t'.fault = t.fault ∧
      t'.undef = t.undef

/-! ## Within a command -/

/-- R29, R32, R60: a command that does not fault is its script run between acceptance and completion; after every
prefix of it BUSY is 1, SEQ counts the events emitted so far, and those events stand at the head of what the command
emits in all. -/
def Obligations.BusyAndSeqWithinACommand : Prop :=
  ∀ (i : Instr) (s : State) (k : Nat), let m := midCommand (commandScript i) k s
    (∀ t, exec i s = .next t → t.fault = none → complete (commandScript i) s = .next t) ∧
    m.busy = true ∧ m.variant = s.variant ∧ m.cfg = s.cfg ∧ m.fault = s.fault ∧
    (∃ es, m.trace = s.trace ++ es ∧ m.seq = es.length) ∧
    ∃ es, (runScript (commandScript i) s.accept).finish.trace = m.trace ++ es

/-- R33: ST = RESETTING is seen only within INIT and RESET, where BUSY = 1. -/
def Obligations.ResettingOnlyWithinInitAndReset : Prop :=
  ∀ (i : Instr) (s : State) (k : Nat), s.st ≠ .resetting →
    (midCommand (commandScript i) k s).st = .resetting →
      (midCommand (commandScript i) k s).busy = true ∧ (i = .reset ∨ ∃ c l r, i = .init c l r)

/-- R71, R36: within every command too, HELD is 1 exactly between a Begin and its End, every Byte lies in between, the
clock is low whenever no bit is being shifted (MOSI undefined), and RATE is SCLK_HZ while the bus is held. -/
def Obligations.BusBracketHoldsWithinACommand : Prop :=
  ∀ (i : Instr) (s : State) (k : Nat), busScan (some false) s.trace = some false → s.held = false →
    s.sclk = false → s.mosi = .unspecified →
    let m := midCommand (commandScript i) k s
    busScan (some false) m.trace = some m.held ∧ (m.mosi = .unspecified → m.sclk = false) ∧
    (m.sclk = true → m.held = true) ∧ (m.held = true → m.rate = m.cfg.sclkHz)

/-- R64: within ByteOut(b), in the bit time of bit i, MOSI carries b[i] while the clock is low, through its rise and
through its fall. -/
def Obligations.ByteIsShiftedLsbFirstInModeZero : Prop :=
  ∀ (b : Byte) (s : State) (i : Nat), i < 8 → s.sclk = false →
    let at_ := fun k => runScript ((byteOut fun _ => b).take k) s
    ((at_ (2 + 3 * i)).mosi = .driven (b.getLsbD i) ∧ (at_ (2 + 3 * i)).sclk = false) ∧
    ((at_ (3 + 3 * i)).mosi = .driven (b.getLsbD i) ∧ (at_ (3 + 3 * i)).sclk = true) ∧
    ((at_ (4 + 3 * i)).mosi = .driven (b.getLsbD i) ∧ (at_ (4 + 3 * i)).sclk = false) ∧
    (runScript (byteOut fun _ => b) s).mosi = .unspecified ∧
    (runScript (byteOut fun _ => b) s).trace = s.trace ++ [.byte b]

/-- R69, R77, R240: a frame takes effect at its latch pulse and not before. Within UpdateSeq the receiver's active
registers are untouched until the latch pin has fallen; from then on they hold the frame's word, and the device is out
of power-down. Within PWRDN they are never touched, and the device enters power-down at the fall of the second latch
pulse. That a pulse counts at its fall is the model's, and so is the order on a shared pin, whence the premise that the
latch and reset pins differ (log entry 11), and that the strobe input, where it shares the latch pin, has no effect of
its own there (log entry 24). -/
def Obligations.ActiveRegistersWaitForTheLatch : Prop :=
  ∀ (s : State) (k : Nat) (es : List Event),
    ((midCommand updateSeq k s).trace = s.trace ++ es → Event.pin s.pinLatch false ∉ es →
      let d := (midCommand updateSeq k s).dev
      d.dphAct = s.dev.dphAct ∧ d.ctrlAct = s.dev.ctrlAct ∧ d.poweredDown = s.dev.poweredDown) ∧
    (s.pinLatch ≠ s.pinRst → s.dev.n = 0 → s.dev.stage = .idle →
      ((midCommand updateSeq k s).trace = s.trace ++ es → Event.pin s.pinLatch false ∈ es →
        let d := (midCommand updateSeq k s).dev
        d.dphAct = s.dph ∧ d.ctrlAct = s.ctrl ∧ d.poweredDown = false) ∧
      ((midCommand pwrdnScript k s).trace = s.trace ++ es →
        let d := (midCommand pwrdnScript k s).dev
        d.dphAct = s.dev.dphAct ∧ d.ctrlAct = s.dev.ctrlAct ∧
        d.poweredDown = if es.count (.pin s.pinLatch false) < 2 then s.dev.poweredDown else true))

/-! ## Wire format (spec/20_memory.md) -/

/-- R65: the 40 wire bits of a frequency frame are d, least significant bit first, then c; the power-down frame carries
0, 0, 1, 0, 0, 0, 0, 0. -/
def Obligations.WireBitOrder : Prop :=
  ∀ (c : Config) (latch : Pin) (d : Phase) (ctrl : Byte),
    (wireBits (frame5 c latch d ctrl)).length = 40 ∧
    (∀ i, i < 32 → (wireBits (frame5 c latch d ctrl))[i]? = some (d.getLsbD i)) ∧
    (∀ i, 32 ≤ i → i < 40 → (wireBits (frame5 c latch d ctrl))[i]? = some (ctrl.getLsbD (i - 32))) ∧
    wireBits (framePd c latch) = [false, false, true, false, false, false, false, false]

/-- R66: the first four of the five bytes of a frequency frame, reassembled little-endian, are DPH. -/
def Obligations.FrameBytesReassembleToDph : Prop :=
  ∀ (d : Phase) (ctrl b0 b1 b2 b3 b4 : Byte), frameBytes d ctrl = [b0, b1, b2, b3, b4] →
    b0.toNat + b1.toNat * 2 ^ 8 + b2.toNat * 2 ^ 16 + b3.toNat * 2 ^ 24 = d.toNat ∧ b4 = ctrl

/-! ## Datapath (spec/40_datapath.md) -/

/-- R113 (a) to (g): the laws of DeltaPhase for C ≠ 0, operands of every width. -/
def Obligations.DeltaPhaseLaws : Prop :=
  ∀ c : Nat, c ≠ 0 →
    (∀ f : Nat, f < c → f * 2 ^ 32 / c < 2 ^ 32 ∧ (deltaPhase f c).toNat = f * 2 ^ 32 / c) ∧
    deltaPhase 0 c = 0 ∧
    (∀ k : Nat, deltaPhase (k * c) c = 0) ∧
    (∀ f : Nat, deltaPhase f c = deltaPhase (f % c) c) ∧
    (∀ f g : Nat, f ≤ g → g < c → (deltaPhase f c).toNat ≤ (deltaPhase g c).toNat) ∧
    (deltaPhase (c - 1) c).toNat = 2 ^ 32 - (2 ^ 32 + c - 1) / c ∧
    ∀ (s t : State) (f : Nat), s.calib = c → t.calib = c → (s.loadDph f).dph = (t.loadDph f).dph

/-- R115, R111: a restoring division over OPW + 32 bits computes the delta phase, for every OPW and every operand of
OPW bits. -/
def Obligations.RestoringDividerComputesDeltaPhase : Prop :=
  ∀ (opW : Nat) (f c : Nat), f < 2 ^ opW → c ≠ 0 → restoringDeltaPhase opW f c = deltaPhase f c

/-- R80, R79: below the calibration frequency the reference receiver's output is at most the requested frequency and
less than CALIB / 2^32 below it. The output is that of the phase accumulator, whatever the power mode: the model's
choice (log entry 23). -/
def Obligations.OutputFrequencyAccuracy : Prop :=
  ∀ (c : Config) (d : Receiver) (f x : Nat), f < x → d.dphAct = deltaPhase f x →
    d.outputHz (operandHz c x) ≤ operandHz c f ∧
    operandHz c f - d.outputHz (operandHz c x) < operandHz c x / 2 ^ 32

/-! ## Sequences of commands -/

/-- R133, R102: RESET ends with the frame that SETFREQ of 1 Hz sends, and leaves the same DPH. -/
def Obligations.ResetEndsLikeSetfreqOneHz : Prop :=
  ∀ s : State, s.st ≠ .uninit → s.calib ≠ 0 → ∃ (t u : State) (sent : List Event),
    exec .reset s = .next t ∧ exec (.setfreq (2 ^ s.cfg.opFrac)) s = .next u ∧ t.dph = u.dph ∧ t.st = u.st ∧
    u.trace = s.trace ++ sent ∧
    t.trace = s.trace ++ pulseEvents s.cfg s.pinRst s.cfg.tRstPw ++ pulseEvents s.cfg s.pinClk s.cfg.tPw ++
      pulseEvents s.cfg s.pinLatch s.cfg.tPw ++ sent

/-- R173 (b): PWRDN then PWRUP leaves DPH, CTRL and CALIB, ends in ACTIVE, and re-sends the frame last sent. -/
def Obligations.PowerCycleRestoresTheFrame : Prop :=
  ∀ s : State, s.st ≠ .uninit → ∃ t u : State,
    exec .pwrdn s = .next t ∧ exec .pwrup t = .next u ∧
    u.dph = s.dph ∧ u.ctrl = s.ctrl ∧ u.calib = s.calib ∧ u.st = .active ∧
    u.trace = s.trace ++ framePd s.cfg s.pinLatch ++ frame5 s.cfg s.pinLatch s.dph s.ctrl ∧
    (s.Inv → s.st = .active → (frames u.trace).getLast? = (frames s.trace).getLast?)

/-- R154 (b), R235, R156 (b): CALIB recomputes nothing: an UPDATE or PWRUP after it sends the word computed before. -/
def Obligations.CalibrationWaitsForTheNextComputation : Prop :=
  ∀ (x : Operand) (s : State), s.st ≠ .uninit → ∃ t u : State,
    exec (.calib x) s = .next t ∧ exec .update t = .next u ∧ exec .pwrup t = .next u ∧
    t.dph = s.dph ∧ t.trace = s.trace ∧ u.dph = s.dph ∧ u.calib = x ∧
    u.trace = s.trace ++ frame5 s.cfg s.pinLatch s.dph s.ctrl

/-- R131 (a), R156 (a), R236: an INIT after a CALIB leaves what the INIT alone leaves: the calibration is discarded. -/
def Obligations.InitDiscardsCalibration : Prop :=
  ∀ (x : Operand) (clk latch rst : Pin) (s t u : State),
    firstForbidden s.cfg clk latch rst = none → exec (.calib x) s = .next t →
    exec (.init clk latch rst) t = .next u →
      exec (.init clk latch rst) s = .next u ∧ u.calib = nominal s.cfg s.variant

/-! ## Time (spec/70_reset_and_hazards.md section 4) -/

/-- R243: the least time of each command that raises no fault: 40 B + 2 T_PW, 8 B + 4 T_PW, T_RST_PW + 7 T_PW + 40 B
and 0, where B = 1 / SCLK_HZ, in picoseconds (log entry 4). No step rests on it. -/
def Obligations.LeastCommandTimes : Prop :=
  (∀ c : Config, c.valid = true → bitTime c * c.sclkHz = 10 ^ 12) ∧
  ∀ (i : Instr) (s t : State) (es : List Event), exec i s = .next t → t.fault = none → t.trace = s.trace ++ es →
    let b := bitTime s.cfg
    leastTime s.cfg es =
      match i with
      | .init _ _ _ => s.cfg.tRstPw + 7 * s.cfg.tPw + 40 * b
      | .reset => s.cfg.tRstPw + 7 * s.cfg.tPw + 40 * b
      | .setfreq _ => 40 * b + 2 * s.cfg.tPw
      | .update => 40 * b + 2 * s.cfg.tPw
      | .calib _ => 0
      | .pwrdn => 8 * b + 4 * s.cfg.tPw
      | .pwrup => 40 * b + 2 * s.cfg.tPw

/-- R121, R237: no hold a command emits is of zero duration. -/
def Obligations.EveryHoldIsPositive : Prop :=
  ∀ (i : Instr) (s t : State) (es : List Event) (w : Duration), s.cfg.valid = true → exec i s = .next t →
    t.trace = s.trace ++ es → Event.hold w ∈ es → 0 < w
end

