-- ==== Sys2Proof/Laws/State.lean ====
section
/-!
SUPPORT. One lemma per field per update of State, each true by rfl.
-/

namespace Sys2Proof.Machine

variable (s : State)

/-! ## State.emit -/

@[simp] theorem emit_cfg (e : Event) : (s.emit e).cfg = s.cfg := rfl
@[simp] theorem emit_host (e : Event) : (s.emit e).host = s.host := rfl
@[simp] theorem emit_variant (e : Event) : (s.emit e).variant = s.variant := rfl
@[simp] theorem emit_calib (e : Event) : (s.emit e).calib = s.calib := rfl
@[simp] theorem emit_ctrl (e : Event) : (s.emit e).ctrl = s.ctrl := rfl
@[simp] theorem emit_dph (e : Event) : (s.emit e).dph = s.dph := rfl
@[simp] theorem emit_pinClk (e : Event) : (s.emit e).pinClk = s.pinClk := rfl
@[simp] theorem emit_pinLatch (e : Event) : (s.emit e).pinLatch = s.pinLatch := rfl
@[simp] theorem emit_pinRst (e : Event) : (s.emit e).pinRst = s.pinRst := rfl
@[simp] theorem emit_st (e : Event) : (s.emit e).st = s.st := rfl
@[simp] theorem emit_busy (e : Event) : (s.emit e).busy = s.busy := rfl
@[simp] theorem emit_seq (e : Event) : (s.emit e).seq = s.seq + 1 := rfl
@[simp] theorem emit_drv (e : Event) : (s.emit e).drv = s.drv := rfl
@[simp] theorem emit_held (e : Event) : (s.emit e).held = s.held := rfl
@[simp] theorem emit_sclk (e : Event) : (s.emit e).sclk = s.sclk := rfl
@[simp] theorem emit_mosi (e : Event) : (s.emit e).mosi = s.mosi := rfl
@[simp] theorem emit_rate (e : Event) : (s.emit e).rate = s.rate := rfl
@[simp] theorem emit_dev (e : Event) : (s.emit e).dev = s.dev := rfl
@[simp] theorem emit_trace (e : Event) : (s.emit e).trace = s.trace ++ [e] := rfl
@[simp] theorem emit_fault (e : Event) : (s.emit e).fault = s.fault := rfl
@[simp] theorem emit_undef (e : Event) : (s.emit e).undef = s.undef := rfl
@[simp] theorem emit_draws (e : Event) : (s.emit e).draws = s.draws := rfl

/-! ## State.setPin -/

@[simp] theorem setPin_cfg (p : Pin) (v : Bool) : (s.setPin p v).cfg = s.cfg := rfl
@[simp] theorem setPin_host (p : Pin) (v : Bool) : (s.setPin p v).host = s.host := rfl
@[simp] theorem setPin_variant (p : Pin) (v : Bool) : (s.setPin p v).variant = s.variant := rfl
@[simp] theorem setPin_calib (p : Pin) (v : Bool) : (s.setPin p v).calib = s.calib := rfl
@[simp] theorem setPin_ctrl (p : Pin) (v : Bool) : (s.setPin p v).ctrl = s.ctrl := rfl
@[simp] theorem setPin_dph (p : Pin) (v : Bool) : (s.setPin p v).dph = s.dph := rfl
@[simp] theorem setPin_pinClk (p : Pin) (v : Bool) : (s.setPin p v).pinClk = s.pinClk := rfl
@[simp] theorem setPin_pinLatch (p : Pin) (v : Bool) : (s.setPin p v).pinLatch = s.pinLatch := rfl
@[simp] theorem setPin_pinRst (p : Pin) (v : Bool) : (s.setPin p v).pinRst = s.pinRst := rfl
@[simp] theorem setPin_st (p : Pin) (v : Bool) : (s.setPin p v).st = s.st := rfl
@[simp] theorem setPin_busy (p : Pin) (v : Bool) : (s.setPin p v).busy = s.busy := rfl
@[simp] theorem setPin_seq (p : Pin) (v : Bool) : (s.setPin p v).seq = s.seq := rfl
@[simp] theorem setPin_drv (p : Pin) (v : Bool) : (s.setPin p v).drv = insertPin p v s.drv := rfl
@[simp] theorem setPin_held (p : Pin) (v : Bool) : (s.setPin p v).held = s.held := rfl
@[simp] theorem setPin_sclk (p : Pin) (v : Bool) : (s.setPin p v).sclk = s.sclk := rfl
@[simp] theorem setPin_mosi (p : Pin) (v : Bool) : (s.setPin p v).mosi = s.mosi := rfl
@[simp] theorem setPin_rate (p : Pin) (v : Bool) : (s.setPin p v).rate = s.rate := rfl
@[simp] theorem setPin_dev (p : Pin) (v : Bool) : (s.setPin p v).dev = s.dev := rfl
@[simp] theorem setPin_trace (p : Pin) (v : Bool) : (s.setPin p v).trace = s.trace := rfl
@[simp] theorem setPin_fault (p : Pin) (v : Bool) : (s.setPin p v).fault = s.fault := rfl
@[simp] theorem setPin_undef (p : Pin) (v : Bool) : (s.setPin p v).undef = s.undef := rfl
@[simp] theorem setPin_draws (p : Pin) (v : Bool) : (s.setPin p v).draws = s.draws := rfl

/-! ## State.setSt -/

@[simp] theorem setSt_cfg (x : SeqState) : (State.setSt x s).cfg = s.cfg := rfl
@[simp] theorem setSt_host (x : SeqState) : (State.setSt x s).host = s.host := rfl
@[simp] theorem setSt_variant (x : SeqState) : (State.setSt x s).variant = s.variant := rfl
@[simp] theorem setSt_calib (x : SeqState) : (State.setSt x s).calib = s.calib := rfl
@[simp] theorem setSt_ctrl (x : SeqState) : (State.setSt x s).ctrl = s.ctrl := rfl
@[simp] theorem setSt_dph (x : SeqState) : (State.setSt x s).dph = s.dph := rfl
@[simp] theorem setSt_pinClk (x : SeqState) : (State.setSt x s).pinClk = s.pinClk := rfl
@[simp] theorem setSt_pinLatch (x : SeqState) : (State.setSt x s).pinLatch = s.pinLatch := rfl
@[simp] theorem setSt_pinRst (x : SeqState) : (State.setSt x s).pinRst = s.pinRst := rfl
@[simp] theorem setSt_st (x : SeqState) : (State.setSt x s).st = x := rfl
@[simp] theorem setSt_busy (x : SeqState) : (State.setSt x s).busy = s.busy := rfl
@[simp] theorem setSt_seq (x : SeqState) : (State.setSt x s).seq = s.seq := rfl
@[simp] theorem setSt_drv (x : SeqState) : (State.setSt x s).drv = s.drv := rfl
@[simp] theorem setSt_held (x : SeqState) : (State.setSt x s).held = s.held := rfl
@[simp] theorem setSt_sclk (x : SeqState) : (State.setSt x s).sclk = s.sclk := rfl
@[simp] theorem setSt_mosi (x : SeqState) : (State.setSt x s).mosi = s.mosi := rfl
@[simp] theorem setSt_rate (x : SeqState) : (State.setSt x s).rate = s.rate := rfl
@[simp] theorem setSt_dev (x : SeqState) : (State.setSt x s).dev = s.dev := rfl
@[simp] theorem setSt_trace (x : SeqState) : (State.setSt x s).trace = s.trace := rfl
@[simp] theorem setSt_fault (x : SeqState) : (State.setSt x s).fault = s.fault := rfl
@[simp] theorem setSt_undef (x : SeqState) : (State.setSt x s).undef = s.undef := rfl
@[simp] theorem setSt_draws (x : SeqState) : (State.setSt x s).draws = s.draws := rfl

/-! ## State.accept -/

@[simp] theorem accept_cfg : (s.accept).cfg = s.cfg := rfl
@[simp] theorem accept_host : (s.accept).host = s.host := rfl
@[simp] theorem accept_variant : (s.accept).variant = s.variant := rfl
@[simp] theorem accept_calib : (s.accept).calib = s.calib := rfl
@[simp] theorem accept_ctrl : (s.accept).ctrl = s.ctrl := rfl
@[simp] theorem accept_dph : (s.accept).dph = s.dph := rfl
@[simp] theorem accept_pinClk : (s.accept).pinClk = s.pinClk := rfl
@[simp] theorem accept_pinLatch : (s.accept).pinLatch = s.pinLatch := rfl
@[simp] theorem accept_pinRst : (s.accept).pinRst = s.pinRst := rfl
@[simp] theorem accept_st : (s.accept).st = s.st := rfl
@[simp] theorem accept_busy : (s.accept).busy = true := rfl
@[simp] theorem accept_seq : (s.accept).seq = 0 := rfl
@[simp] theorem accept_drv : (s.accept).drv = s.drv := rfl
@[simp] theorem accept_held : (s.accept).held = s.held := rfl
@[simp] theorem accept_sclk : (s.accept).sclk = s.sclk := rfl
@[simp] theorem accept_mosi : (s.accept).mosi = s.mosi := rfl
@[simp] theorem accept_rate : (s.accept).rate = s.rate := rfl
@[simp] theorem accept_dev : (s.accept).dev = s.dev := rfl
@[simp] theorem accept_trace : (s.accept).trace = s.trace := rfl
@[simp] theorem accept_fault : (s.accept).fault = s.fault := rfl
@[simp] theorem accept_undef : (s.accept).undef = s.undef := rfl
@[simp] theorem accept_draws : (s.accept).draws = s.draws := rfl

/-! ## State.finish -/

@[simp] theorem finish_cfg : (s.finish).cfg = s.cfg := rfl
@[simp] theorem finish_host : (s.finish).host = s.host := rfl
@[simp] theorem finish_variant : (s.finish).variant = s.variant := rfl
@[simp] theorem finish_calib : (s.finish).calib = s.calib := rfl
@[simp] theorem finish_ctrl : (s.finish).ctrl = s.ctrl := rfl
@[simp] theorem finish_dph : (s.finish).dph = s.dph := rfl
@[simp] theorem finish_pinClk : (s.finish).pinClk = s.pinClk := rfl
@[simp] theorem finish_pinLatch : (s.finish).pinLatch = s.pinLatch := rfl
@[simp] theorem finish_pinRst : (s.finish).pinRst = s.pinRst := rfl
@[simp] theorem finish_st : (s.finish).st = s.st := rfl
@[simp] theorem finish_busy : (s.finish).busy = false := rfl
@[simp] theorem finish_seq : (s.finish).seq = s.seq := rfl
@[simp] theorem finish_drv : (s.finish).drv = s.drv := rfl
@[simp] theorem finish_held : (s.finish).held = s.held := rfl
@[simp] theorem finish_sclk : (s.finish).sclk = s.sclk := rfl
@[simp] theorem finish_mosi : (s.finish).mosi = s.mosi := rfl
@[simp] theorem finish_rate : (s.finish).rate = s.rate := rfl
@[simp] theorem finish_dev : (s.finish).dev = s.dev := rfl
@[simp] theorem finish_trace : (s.finish).trace = s.trace := rfl
@[simp] theorem finish_fault : (s.finish).fault = s.fault := rfl
@[simp] theorem finish_undef : (s.finish).undef = s.undef := rfl
@[simp] theorem finish_draws : (s.finish).draws = s.draws := rfl

/-! ## State.pulseSeen -/

@[simp] theorem pulseSeen_cfg (p : Pin) : (State.pulseSeen p s).cfg = s.cfg := rfl
@[simp] theorem pulseSeen_host (p : Pin) : (State.pulseSeen p s).host = s.host := rfl
@[simp] theorem pulseSeen_variant (p : Pin) : (State.pulseSeen p s).variant = s.variant := rfl
@[simp] theorem pulseSeen_calib (p : Pin) : (State.pulseSeen p s).calib = s.calib := rfl
@[simp] theorem pulseSeen_ctrl (p : Pin) : (State.pulseSeen p s).ctrl = s.ctrl := rfl
@[simp] theorem pulseSeen_dph (p : Pin) : (State.pulseSeen p s).dph = s.dph := rfl
@[simp] theorem pulseSeen_pinClk (p : Pin) : (State.pulseSeen p s).pinClk = s.pinClk := rfl
@[simp] theorem pulseSeen_pinLatch (p : Pin) : (State.pulseSeen p s).pinLatch = s.pinLatch := rfl
@[simp] theorem pulseSeen_pinRst (p : Pin) : (State.pulseSeen p s).pinRst = s.pinRst := rfl
@[simp] theorem pulseSeen_st (p : Pin) : (State.pulseSeen p s).st = s.st := rfl
@[simp] theorem pulseSeen_busy (p : Pin) : (State.pulseSeen p s).busy = s.busy := rfl
@[simp] theorem pulseSeen_seq (p : Pin) : (State.pulseSeen p s).seq = s.seq := rfl
@[simp] theorem pulseSeen_drv (p : Pin) : (State.pulseSeen p s).drv = s.drv := rfl
@[simp] theorem pulseSeen_held (p : Pin) : (State.pulseSeen p s).held = s.held := rfl
@[simp] theorem pulseSeen_sclk (p : Pin) : (State.pulseSeen p s).sclk = s.sclk := rfl
@[simp] theorem pulseSeen_mosi (p : Pin) : (State.pulseSeen p s).mosi = s.mosi := rfl
@[simp] theorem pulseSeen_rate (p : Pin) : (State.pulseSeen p s).rate = s.rate := rfl
@[simp] theorem pulseSeen_dev (p : Pin) : (State.pulseSeen p s).dev = s.dev.pulsedOn s.pinRst s.pinClk s.pinLatch p s.draws := rfl
@[simp] theorem pulseSeen_trace (p : Pin) : (State.pulseSeen p s).trace = s.trace := rfl
@[simp] theorem pulseSeen_fault (p : Pin) : (State.pulseSeen p s).fault = s.fault := rfl
@[simp] theorem pulseSeen_undef (p : Pin) : (State.pulseSeen p s).undef = s.undef := rfl
@[simp] theorem pulseSeen_draws (p : Pin) : (State.pulseSeen p s).draws = s.draws + 1 := rfl

/-! ## State.raise -/

@[simp] theorem raise_cfg (r : FaultReason) : (s.raise r).cfg = s.cfg := by
  unfold State.raise; split <;> rfl
@[simp] theorem raise_host (r : FaultReason) : (s.raise r).host = s.host := by
  unfold State.raise; split <;> rfl
@[simp] theorem raise_variant (r : FaultReason) : (s.raise r).variant = s.variant := by
  unfold State.raise; split <;> rfl
@[simp] theorem raise_calib (r : FaultReason) : (s.raise r).calib = s.calib := by
  unfold State.raise; split <;> rfl
@[simp] theorem raise_ctrl (r : FaultReason) : (s.raise r).ctrl = s.ctrl := by
  unfold State.raise; split <;> rfl
@[simp] theorem raise_dph (r : FaultReason) : (s.raise r).dph = s.dph := by
  unfold State.raise; split <;> rfl
@[simp] theorem raise_pinClk (r : FaultReason) : (s.raise r).pinClk = s.pinClk := by
  unfold State.raise; split <;> rfl
@[simp] theorem raise_pinLatch (r : FaultReason) : (s.raise r).pinLatch = s.pinLatch := by
  unfold State.raise; split <;> rfl
@[simp] theorem raise_pinRst (r : FaultReason) : (s.raise r).pinRst = s.pinRst := by
  unfold State.raise; split <;> rfl
@[simp] theorem raise_st (r : FaultReason) : (s.raise r).st = s.st := by
  unfold State.raise; split <;> rfl
@[simp] theorem raise_busy (r : FaultReason) : (s.raise r).busy = s.busy := by
  unfold State.raise; split <;> rfl
@[simp] theorem raise_seq (r : FaultReason) : (s.raise r).seq = s.seq := by
  unfold State.raise; split <;> rfl
@[simp] theorem raise_drv (r : FaultReason) : (s.raise r).drv = s.drv := by
  unfold State.raise; split <;> rfl
@[simp] theorem raise_held (r : FaultReason) : (s.raise r).held = s.held := by
  unfold State.raise; split <;> rfl
@[simp] theorem raise_sclk (r : FaultReason) : (s.raise r).sclk = s.sclk := by
  unfold State.raise; split <;> rfl
@[simp] theorem raise_mosi (r : FaultReason) : (s.raise r).mosi = s.mosi := by
  unfold State.raise; split <;> rfl
@[simp] theorem raise_rate (r : FaultReason) : (s.raise r).rate = s.rate := by
  unfold State.raise; split <;> rfl
@[simp] theorem raise_dev (r : FaultReason) : (s.raise r).dev = s.dev := by
  unfold State.raise; split <;> rfl
@[simp] theorem raise_trace (r : FaultReason) : (s.raise r).trace = s.trace := by
  unfold State.raise; split <;> rfl
@[simp] theorem raise_fault (r : FaultReason) : (s.raise r).fault = some (s.fault.getD r) := by
  unfold State.raise; split <;> simp_all
@[simp] theorem raise_undef (r : FaultReason) : (s.raise r).undef = s.undef := by
  unfold State.raise; split <;> rfl
@[simp] theorem raise_draws (r : FaultReason) : (s.raise r).draws = s.draws := by
  unfold State.raise; split <;> rfl

end Sys2Proof.Machine
end

