-- ==== Sys2Proof/Laws/Ops.lean ====
section
/-!
SUPPORT. What each shared operation of Machine/Ops.lean can do, said once.
-/

namespace Sys2Proof.Machine

/-! ## Pins -/

@[simp] theorem lookupPin_insertPin (p : Pin) (v : Bool) (l : List (Pin × Bool)) :
    lookupPin p (insertPin p v l) = some v := by
  induction l with
  | nil => simp [insertPin, lookupPin]
  | cons a l ih =>
    obtain ⟨q, u⟩ := a
    simp only [insertPin]
    split
    · simp [lookupPin]
    · split
      · simp [lookupPin]
      · rename_i hne
        simp [lookupPin, hne, ih]

theorem lookupPin_insertPin_ne {p q : Pin} (h : q ≠ p) (v : Bool) (l : List (Pin × Bool)) :
    lookupPin q (insertPin p v l) = lookupPin q l := by
  induction l with
  | nil => simp [insertPin, lookupPin, h]
  | cons a l ih =>
    obtain ⟨r, u⟩ := a
    simp only [insertPin]
    split
    · simp [lookupPin, h]
    · split
      · rename_i heq
        subst heq
        simp [lookupPin, h]
      · simp [lookupPin, ih]

@[simp] theorem insertPin_insertPin (p : Pin) (u v : Bool) (l : List (Pin × Bool)) :
    insertPin p v (insertPin p u l) = insertPin p v l := by
  induction l with
  | nil => simp [insertPin]
  | cons a l ih =>
    obtain ⟨q, w⟩ := a
    simp only [insertPin]
    split
    · simp [insertPin]
    · split
      · simp [insertPin]
      · rename_i hlt hne
        simp [insertPin, hlt, hne, ih]

/-- The head of a list after an insertion: the new pin or the old head. -/
theorem insertPin_cons_head (p : Pin) (v : Bool) (q : Pin) (u : Bool) (l : List (Pin × Bool)) :
    ∃ r w m, insertPin p v ((q, u) :: l) = (r, w) :: m ∧ (r = p ∨ r = q) := by
  simp only [insertPin]
  split
  · exact ⟨p, v, _, rfl, .inl rfl⟩
  · split
    · exact ⟨p, v, _, rfl, .inl rfl⟩
    · exact ⟨q, u, _, rfl, .inr rfl⟩

/-- A pin write keeps DRV in canonical form. -/
theorem insertPin_canonical (p : Pin) (v : Bool) (l : List (Pin × Bool)) (h : drvCanonical l = true) :
    drvCanonical (insertPin p v l) = true := by
  induction l with
  | nil => rfl
  | cons a l ih =>
    obtain ⟨q, u⟩ := a
    by_cases hlt : p < q
    · simp [insertPin, hlt, drvCanonical, h]
    · by_cases heq : p = q
      · subst heq
        cases l with
        | nil => simp [insertPin, drvCanonical]
        | cons b l => obtain ⟨r, w⟩ := b; simpa [insertPin, drvCanonical] using h
      · have hq : q < p := Nat.lt_of_le_of_ne (Nat.le_of_not_lt hlt) (Ne.symm heq)
        cases l with
        | nil => simp [insertPin, heq, hlt, drvCanonical, hq]
        | cons b l =>
          obtain ⟨r, w⟩ := b
          simp only [drvCanonical, Bool.and_eq_true, decide_eq_true_eq] at h
          obtain ⟨r', w', m, hm, hr⟩ := insertPin_cons_head p v r w l
          have ih := ih h.2
          simp only [insertPin, if_neg hlt, if_neg heq] at *
          rw [hm] at ih ⊢
          simp only [drvCanonical, Bool.and_eq_true, decide_eq_true_eq]
          refine ⟨?_, ih⟩
          rcases hr with rfl | rfl
          · exact hq
          · exact h.1

/-- The pins listed after an insertion. -/
theorem mem_insertPin {p : Pin} {v : Bool} {l : List (Pin × Bool)} {e : Pin × Bool} (h : e ∈ insertPin p v l) :
    e = (p, v) ∨ e ∈ l := by
  induction l with
  | nil => simpa [insertPin] using h
  | cons a l ih =>
    obtain ⟨q, u⟩ := a
    simp only [insertPin] at h
    split at h
    · simpa using h
    · split at h
      · rcases List.mem_cons.1 h with h | h
        · exact .inl h
        · exact .inr (List.mem_cons_of_mem _ h)
      · rcases List.mem_cons.1 h with h | h
        · exact .inr (h ▸ List.mem_cons_self)
        · exact (ih h).imp id (List.mem_cons_of_mem _)

@[simp] theorem drive_setPin_same (s : State) (p : Pin) (v : Bool) : (s.setPin p v).drive p = .level v := by
  simp [State.drive]

theorem drive_setPin_other (s : State) {p q : Pin} (h : q ≠ p) (v : Bool) :
    (s.setPin p v).drive q = s.drive q := by
  simp [State.drive, lookupPin_insertPin_ne h]

/-! ## Faults -/

/-- `raise` on an empty record: FAULT takes the reason, all else stays. -/
theorem raise_of_empty (s : State) (r : FaultReason) (h : s.fault = none) :
    s.raise r = { s with fault := some r } := by
  simp [State.raise, h]

/-- `raise` keeps the first reason. -/
theorem raise_of_recorded (s : State) (r r' : FaultReason) (h : s.fault = some r') : s.raise r = s := by
  simp [State.raise, h]

/-- `raise` changes FAULT and nothing else. -/
theorem raise_eq_with_fault (s : State) (r : FaultReason) : s.raise r = { s with fault := (s.raise r).fault } := by
  unfold State.raise
  split <;> rfl

/-! ## Scripts -/

@[simp] theorem runScript_nil (s : State) : runScript [] s = s := rfl

@[simp] theorem runScript_cons (act : State → State) (rest : Script) (s : State) :
    runScript (act :: rest) s = runScript rest (act s) := rfl

theorem runScript_append (a b : Script) (s : State) : runScript (a ++ b) s = runScript b (runScript a s) := by
  induction a generalizing s with
  | nil => rfl
  | cons act a ih => simp [ih]

/-- `P` holds of the state before, within and after a script run from `s`. -/
def Along (P : State → Prop) : Script → State → Prop
  | [], s => P s
  | act :: rest, s => P s ∧ Along P rest (act s)

theorem Along.here {P : State → Prop} {a : Script} {s : State} (h : Along P a s) : P s := by
  cases a with
  | nil => exact h
  | cons act a => exact h.1

theorem Along.append {P : State → Prop} {a b : Script} {s : State} (ha : Along P a s)
    (hb : Along P b (runScript a s)) : Along P (a ++ b) s := by
  induction a generalizing s with
  | nil => exact hb
  | cons act a ih => exact ⟨ha.1, ih ha.2 hb⟩

/-- What holds along a script holds after each of its prefixes. -/
theorem Along.take {P : State → Prop} {a : Script} {s : State} (h : Along P a s) (k : Nat) :
    P (runScript (a.take k) s) := by
  induction a generalizing s k with
  | nil => rw [List.take_nil]; exact h
  | cons act a ih =>
    cases k with
    | zero => exact h.1
    | succ k => exact ih h.2 k

/-- A property that every action of a script keeps holds along it. -/
theorem Along.of_kept {P : State → Prop} {a : Script} {s : State} (h0 : P s)
    (h : ∀ act ∈ a, ∀ t, P t → P (act t)) : Along P a s := by
  induction a generalizing s with
  | nil => exact h0
  | cons act a ih =>
    exact ⟨h0, ih (h act (by simp) s h0) fun b hb => h b (by simp [hb])⟩

/-- What `complete` answers. -/
theorem complete_eq_next {body : Script} {s t : State} :
    complete body s = .next t ↔ t = (runScript body s.accept).finish := by
  simp [complete, eq_comm]

/-- What `unlessUninit` answers: a recorded fault in UNINIT, else the whole command. -/
theorem unlessUninit_cases {i : Instr} {body : Script} {s t : State} (h : unlessUninit i body s = .next t) :
    (s.st = .uninit ∧ t = s.raise (.uninitializedUse (opcodeOf i))) ∨
      (s.st ≠ .uninit ∧ t = (runScript body s.accept).finish) := by
  unfold unlessUninit takeFault complete at h
  split at h <;> simp_all

/-! ## The command port -/

/-- A command is taken exactly when the port is ready and one is presented: the first one. -/
theorem takeCommand_eq_some {s t : State} {w : CmdWord} :
    takeCommand s = some (w, t) ↔ s.busy = false ∧ ∃ rest, s.host = w :: rest ∧ t = { s with host := rest } := by
  unfold takeCommand
  cases hb : s.busy <;> cases hh : s.host <;> simp [eq_comm]

/-- A command is accepted at the instant CMD_VALID = 1 and CMD_READY = 1 (R90). -/
theorem takeCommand_isSome (s : State) : (takeCommand s).isSome = (s.cmdValid && s.cmdReady) := by
  unfold takeCommand State.cmdValid State.cmdReady
  cases hb : s.busy <;> cases hh : s.host <;> simp

/-- No command is taken while BUSY = 1 or when none is presented. -/
theorem takeCommand_eq_none {s : State} : takeCommand s = none ↔ s.busy = true ∨ s.host = [] := by
  unfold takeCommand
  cases hb : s.busy <;> cases hh : s.host <;> simp

end Sys2Proof.Machine
end

