-- ==== Sys2Proof/Laws/Sequencer.lean ====
section
/-!
SUPPORT. What each subroutine of the sequencer does to the state, said once: the state after ByteOut, Pulse,
UpdateSeq, SetFreqCore, ResetSeq and the scripts of INIT and PWRDN.
-/

namespace Sys2Proof.Machine

/-! ## The receiver -/

/-- The receiver after a whole byte: it stands in the top of SR. -/
def Receiver.takeByte (d : Receiver) (b : Byte) : Receiver :=
  { d with sr := b ++ d.sr.extractLsb' 8 32, n := d.n + 8 }

/-- The bits of SR after one shift. -/
theorem shift_sr (m : Bool) (x : BitVec 40) (i : Nat) :
    (BitVec.ofBool m ++ x.extractLsb' 1 39 : BitVec 40).getLsbD i =
      if i < 39 then x.getLsbD (i + 1) else (decide (i = 39) && m) := by
  rw [BitVec.getLsbD_append]
  split
  · simp [*, Nat.add_comm]
  · rename_i h
    have e : (i - 39 = 0) ↔ (i = 39) := by omega
    simp [e]

/-- The bits of SR after a byte. -/
theorem takeByte_sr (b : Byte) (x : BitVec 40) (i : Nat) :
    (b ++ x.extractLsb' 8 32 : BitVec 40).getLsbD i =
      if i < 32 then x.getLsbD (i + 8) else b.getLsbD (i - 32) := by
  rw [BitVec.getLsbD_append]
  split
  · simp [*, Nat.add_comm]
  · simp

/-- Eight shifts, least significant bit first, take a byte (R64, R76). -/
theorem shift_byte (d : Receiver) (b : Byte) :
    ((((((((d.shift (b.getLsbD 0)).shift (b.getLsbD 1)).shift (b.getLsbD 2)).shift (b.getLsbD 3)).shift
      (b.getLsbD 4)).shift (b.getLsbD 5)).shift (b.getLsbD 6)).shift (b.getLsbD 7)) = d.takeByte b := by
  simp only [Receiver.shift, Receiver.takeByte, Receiver.mk.injEq, and_true]
  apply BitVec.eq_of_getLsbD_eq
  intro i hi
  rw [takeByte_sr]
  simp only [shift_sr]
  interval_cases i <;> rfl

/-- The receiver after the five bytes of a frequency frame: SR = {c, d} (R76). -/
def Receiver.takeWord (d : Receiver) (w : Phase) (c : Byte) : Receiver :=
  { d with sr := c ++ w, n := d.n + 40 }

/-- Five bytes, low byte first, make the word. -/
theorem takeByte_five (d : Receiver) (w : Phase) (c : Byte) :
    (((((d.takeByte (dphByte 0 w)).takeByte (dphByte 1 w)).takeByte (dphByte 2 w)).takeByte (dphByte 3 w)).takeByte
      c) = d.takeWord w c := by
  simp only [Receiver.takeByte, Receiver.takeWord, dphByte, Receiver.mk.injEq, and_true]
  refine BitVec.eq_of_getLsbD_eq fun i hi => ?_
  simp only [BitVec.getLsbD_append, BitVec.getLsbD_extractLsb']
  interval_cases i <;> simp

/-! ## The bus -/

/-- ByteOut while the bus is held: one event, the lines back at rest, the byte in the receiver. -/
theorem run_byteOut {src : State → Byte} (hsrc : ∀ s t : State, s.dph = t.dph → s.ctrl = t.ctrl → src s = src t)
    (s : State) (hheld : s.held = true) :
    runScript (byteOut src) s =
      { s with
        trace := s.trace ++ [.byte (src s)]
        seq := s.seq + 1
        mosi := .unspecified
        sclk := false
        dev := s.dev.takeByte (src s) } := by
  rw [← shift_byte]
  have h : ∀ t : State, t.dph = s.dph → t.ctrl = s.ctrl → src t = src s := fun t h1 h2 => hsrc t s h1 h2
  simp [byteOut, bitOut, setMosi, raiseSclk, lowerSclk, releaseMosi, State.sampleMosi, State.emit, hheld, h]

theorem run_byteOut_dph (k : Nat) (s : State) (hheld : s.held = true) :
    runScript (byteOut fun s => dphByte k s.dph) s =
      { s with
        trace := s.trace ++ [.byte (dphByte k s.dph)]
        seq := s.seq + 1
        mosi := .unspecified
        sclk := false
        dev := s.dev.takeByte (dphByte k s.dph) } :=
  run_byteOut (fun _ _ h _ => congrArg _ h) s hheld

theorem run_byteOut_ctrl (s : State) (hheld : s.held = true) :
    runScript (byteOut State.ctrl) s =
      { s with
        trace := s.trace ++ [.byte s.ctrl]
        seq := s.seq + 1
        mosi := .unspecified
        sclk := false
        dev := s.dev.takeByte s.ctrl } :=
  run_byteOut (fun _ _ _ h => h) s hheld

theorem run_byteOut_const (b : Byte) (s : State) (hheld : s.held = true) :
    runScript (byteOut fun _ => b) s =
      { s with
        trace := s.trace ++ [.byte b]
        seq := s.seq + 1
        mosi := .unspecified
        sclk := false
        dev := s.dev.takeByte b } :=
  run_byteOut (fun _ _ _ _ => rfl) s hheld

/-- Pulse on a pin named by a pin register: four events, the pin driven low, the pulse seen by the receiver. -/
theorem run_pulse {src : State → Pin} (width : Config → Duration)
    (hsrc : ∀ s t : State, s.pinClk = t.pinClk → s.pinLatch = t.pinLatch → s.pinRst = t.pinRst → src s = src t)
    (s : State) :
    runScript (pulse src width) s =
      { s with
        trace := s.trace ++ pulseEvents s.cfg (src s) (width s.cfg)
        seq := s.seq + 4
        drv := insertPin (src s) false s.drv
        dev := s.dev.pulsedOn s.pinRst s.pinClk s.pinLatch (src s) s.draws
        draws := s.draws + 1 } := by
  have h : ∀ t : State, t.pinClk = s.pinClk → t.pinLatch = s.pinLatch → t.pinRst = s.pinRst → src t = src s :=
    fun t h1 h2 h3 => hsrc t s h1 h2 h3
  simp [pulse, drivePin, holdFor, State.emit, State.setPin, State.pulseSeen, State.drive, pulseEvents, h]

theorem run_pulse_latch (width : Config → Duration) (s : State) :
    runScript (pulse State.pinLatch width) s =
      { s with
        trace := s.trace ++ pulseEvents s.cfg s.pinLatch (width s.cfg)
        seq := s.seq + 4
        drv := insertPin s.pinLatch false s.drv
        dev := s.dev.pulsedOn s.pinRst s.pinClk s.pinLatch s.pinLatch s.draws
        draws := s.draws + 1 } :=
  run_pulse width (fun _ _ _ h _ => h) s

theorem run_pulse_clk (width : Config → Duration) (s : State) :
    runScript (pulse State.pinClk width) s =
      { s with
        trace := s.trace ++ pulseEvents s.cfg s.pinClk (width s.cfg)
        seq := s.seq + 4
        drv := insertPin s.pinClk false s.drv
        dev := s.dev.pulsedOn s.pinRst s.pinClk s.pinLatch s.pinClk s.draws
        draws := s.draws + 1 } :=
  run_pulse width (fun _ _ h _ _ => h) s

theorem run_pulse_rst (width : Config → Duration) (s : State) :
    runScript (pulse State.pinRst width) s =
      { s with
        trace := s.trace ++ pulseEvents s.cfg s.pinRst (width s.cfg)
        seq := s.seq + 4
        drv := insertPin s.pinRst false s.drv
        dev := s.dev.pulsedOn s.pinRst s.pinClk s.pinLatch s.pinRst s.draws
        draws := s.draws + 1 } :=
  run_pulse width (fun _ _ _ _ h => h) s

/-! ## Subroutines -/

/-- The state after UpdateSeq (R117). -/
def afterUpdate (s : State) : State :=
  { s with
    trace := s.trace ++ frame5 s.cfg s.pinLatch s.dph s.ctrl
    seq := s.seq + 11
    held := false
    rate := s.cfg.sclkHz
    sclk := false
    mosi := .unspecified
    st := .active
    drv := insertPin s.pinLatch false s.drv
    dev := (s.dev.takeWord s.dph s.ctrl).pulsedOn s.pinRst s.pinClk s.pinLatch s.pinLatch s.draws
    draws := s.draws + 1 }

theorem run_updateSeq (s : State) : runScript updateSeq s = afterUpdate s := by
  rw [afterUpdate, ← takeByte_five]
  simp only [updateSeq, runScript_append, runScript_cons, runScript_nil, run_pulse_latch, run_byteOut_dph,
    run_byteOut_ctrl, beginBus]
  simp [endBus, State.emit, State.setSt, frame5, frameBytes, pulseEvents]

/-- SetFreqCore: load DPH, then UpdateSeq (R120). -/
theorem run_setFreqCore (f : Config → Operand) (s : State) :
    runScript (setFreqCore f) s = afterUpdate (s.loadDph (f s.cfg)) := by
  simp [setFreqCore, run_updateSeq]

/-- The state after the three pulses of ResetSeq (R118). -/
def afterResetPulses (s : State) : State :=
  { s with
    st := .resetting
    trace := s.trace ++ (pulseEvents s.cfg s.pinRst s.cfg.tRstPw ++ pulseEvents s.cfg s.pinClk s.cfg.tPw ++
      pulseEvents s.cfg s.pinLatch s.cfg.tPw)
    seq := s.seq + 12
    drv := insertPin s.pinLatch false (insertPin s.pinClk false (insertPin s.pinRst false s.drv))
    dev := ((s.dev.pulsedOn s.pinRst s.pinClk s.pinLatch s.pinRst s.draws).pulsedOn s.pinRst s.pinClk s.pinLatch
      s.pinClk (s.draws + 1)).pulsedOn s.pinRst s.pinClk s.pinLatch s.pinLatch (s.draws + 2)
    draws := s.draws + 3 }

/-- ResetSeq: the pulses, then SetFreqCore(ONE_HZ) (R118). -/
theorem run_resetSeq (s : State) :
    runScript resetSeq s = afterUpdate ((afterResetPulses s).loadDph (oneHz s.cfg)) := by
  simp [resetSeq, runScript_append, run_pulse_latch, run_pulse_clk, run_pulse_rst, run_setFreqCore, State.setSt,
    afterResetPulses]

/-- The state after INIT's register writes and OE events (R130). -/
def afterInitPins (clk latch rst : Pin) (s : State) : State :=
  { initRegisters clk latch rst s with
    trace := s.trace ++ [.oe clk, .oe latch, .oe rst]
    seq := s.seq + 3
    drv := insertPin rst false (insertPin latch false (insertPin clk false s.drv)) }

/-- INIT: registers and pins, then ResetSeq (R130). -/
theorem run_initScript (clk latch rst : Pin) (s : State) :
    runScript (initScript clk latch rst) s = runScript resetSeq (afterInitPins clk latch rst s) := by
  simp [initScript, afterInitPins, outputEnable, State.emit, State.setPin, initRegisters]

/-- The state after PWRDN's script (R170). -/
def afterPwrdn (s : State) : State :=
  { s with
    trace := s.trace ++ framePd s.cfg s.pinLatch
    seq := s.seq + 11
    held := false
    rate := s.cfg.sclkHz
    sclk := false
    mosi := .unspecified
    st := .poweredDown
    drv := insertPin s.pinLatch false s.drv
    dev := ((s.dev.pulsedOn s.pinRst s.pinClk s.pinLatch s.pinLatch s.draws).takeByte powerDownByte).pulsedOn
      s.pinRst s.pinClk s.pinLatch s.pinLatch (s.draws + 1)
    draws := s.draws + 2 }

theorem run_pwrdnScript (s : State) : runScript pwrdnScript s = afterPwrdn s := by
  simp only [pwrdnScript, runScript_append, runScript_cons, runScript_nil, run_pulse_latch, run_byteOut_const,
    beginBus]
  simp [endBus, State.emit, State.setSt, framePd, pulseEvents, afterPwrdn]

end Sys2Proof.Machine
end

