-- ==== Sys2Proof/Laws/After.lean ====
section
/-!
SUPPORT. One lemma per field for the state after each subroutine of the sequencer, each true by rfl, and for the load
of DPH.
-/

namespace Sys2Proof.Machine

variable (s : State)

/-! ## afterUpdate -/

@[simp] theorem afterUpdate_cfg : (afterUpdate s).cfg = s.cfg := rfl
@[simp] theorem afterUpdate_host : (afterUpdate s).host = s.host := rfl
@[simp] theorem afterUpdate_variant : (afterUpdate s).variant = s.variant := rfl
@[simp] theorem afterUpdate_calib : (afterUpdate s).calib = s.calib := rfl
@[simp] theorem afterUpdate_ctrl : (afterUpdate s).ctrl = s.ctrl := rfl
@[simp] theorem afterUpdate_dph : (afterUpdate s).dph = s.dph := rfl
@[simp] theorem afterUpdate_pinClk : (afterUpdate s).pinClk = s.pinClk := rfl
@[simp] theorem afterUpdate_pinLatch : (afterUpdate s).pinLatch = s.pinLatch := rfl
@[simp] theorem afterUpdate_pinRst : (afterUpdate s).pinRst = s.pinRst := rfl
@[simp] theorem afterUpdate_st : (afterUpdate s).st = .active := rfl
@[simp] theorem afterUpdate_busy : (afterUpdate s).busy = s.busy := rfl
@[simp] theorem afterUpdate_seq : (afterUpdate s).seq = s.seq + 11 := rfl
@[simp] theorem afterUpdate_drv : (afterUpdate s).drv = insertPin s.pinLatch false s.drv := rfl
@[simp] theorem afterUpdate_held : (afterUpdate s).held = false := rfl
@[simp] theorem afterUpdate_sclk : (afterUpdate s).sclk = false := rfl
@[simp] theorem afterUpdate_mosi : (afterUpdate s).mosi = .unspecified := rfl
@[simp] theorem afterUpdate_rate : (afterUpdate s).rate = s.cfg.sclkHz := rfl
@[simp] theorem afterUpdate_dev :
    (afterUpdate s).dev =
      (s.dev.takeWord s.dph s.ctrl).pulsedOn s.pinRst s.pinClk s.pinLatch s.pinLatch s.draws :=
  rfl
@[simp] theorem afterUpdate_trace : (afterUpdate s).trace = s.trace ++ frame5 s.cfg s.pinLatch s.dph s.ctrl := rfl
@[simp] theorem afterUpdate_fault : (afterUpdate s).fault = s.fault := rfl
@[simp] theorem afterUpdate_undef : (afterUpdate s).undef = s.undef := rfl
@[simp] theorem afterUpdate_draws : (afterUpdate s).draws = s.draws + 1 := rfl

/-! ## afterResetPulses -/

@[simp] theorem afterResetPulses_cfg : (afterResetPulses s).cfg = s.cfg := rfl
@[simp] theorem afterResetPulses_host : (afterResetPulses s).host = s.host := rfl
@[simp] theorem afterResetPulses_variant : (afterResetPulses s).variant = s.variant := rfl
@[simp] theorem afterResetPulses_calib : (afterResetPulses s).calib = s.calib := rfl
@[simp] theorem afterResetPulses_ctrl : (afterResetPulses s).ctrl = s.ctrl := rfl
@[simp] theorem afterResetPulses_dph : (afterResetPulses s).dph = s.dph := rfl
@[simp] theorem afterResetPulses_pinClk : (afterResetPulses s).pinClk = s.pinClk := rfl
@[simp] theorem afterResetPulses_pinLatch : (afterResetPulses s).pinLatch = s.pinLatch := rfl
@[simp] theorem afterResetPulses_pinRst : (afterResetPulses s).pinRst = s.pinRst := rfl
@[simp] theorem afterResetPulses_st : (afterResetPulses s).st = .resetting := rfl
@[simp] theorem afterResetPulses_busy : (afterResetPulses s).busy = s.busy := rfl
@[simp] theorem afterResetPulses_seq : (afterResetPulses s).seq = s.seq + 12 := rfl
@[simp] theorem afterResetPulses_drv :
    (afterResetPulses s).drv =
      insertPin s.pinLatch false (insertPin s.pinClk false (insertPin s.pinRst false s.drv)) :=
  rfl
@[simp] theorem afterResetPulses_held : (afterResetPulses s).held = s.held := rfl
@[simp] theorem afterResetPulses_sclk : (afterResetPulses s).sclk = s.sclk := rfl
@[simp] theorem afterResetPulses_mosi : (afterResetPulses s).mosi = s.mosi := rfl
@[simp] theorem afterResetPulses_rate : (afterResetPulses s).rate = s.rate := rfl
@[simp] theorem afterResetPulses_dev :
    (afterResetPulses s).dev =
      ((s.dev.pulsedOn s.pinRst s.pinClk s.pinLatch s.pinRst s.draws).pulsedOn s.pinRst s.pinClk s.pinLatch
      s.pinClk (s.draws + 1)).pulsedOn s.pinRst s.pinClk s.pinLatch s.pinLatch (s.draws + 2) :=
  rfl
@[simp] theorem afterResetPulses_trace :
    (afterResetPulses s).trace =
      s.trace ++ (pulseEvents s.cfg s.pinRst s.cfg.tRstPw ++ pulseEvents s.cfg s.pinClk s.cfg.tPw ++
      pulseEvents s.cfg s.pinLatch s.cfg.tPw) :=
  rfl
@[simp] theorem afterResetPulses_fault : (afterResetPulses s).fault = s.fault := rfl
@[simp] theorem afterResetPulses_undef : (afterResetPulses s).undef = s.undef := rfl
@[simp] theorem afterResetPulses_draws : (afterResetPulses s).draws = s.draws + 3 := rfl

/-! ## afterInitPins -/

@[simp] theorem afterInitPins_cfg (clk latch rst : Pin) : (afterInitPins clk latch rst s).cfg = s.cfg := rfl
@[simp] theorem afterInitPins_host (clk latch rst : Pin) : (afterInitPins clk latch rst s).host = s.host := rfl
@[simp] theorem afterInitPins_variant (clk latch rst : Pin) :
    (afterInitPins clk latch rst s).variant =
      s.variant :=
  rfl
@[simp] theorem afterInitPins_calib (clk latch rst : Pin) :
    (afterInitPins clk latch rst s).calib =
      nominal s.cfg s.variant :=
  rfl
@[simp] theorem afterInitPins_ctrl (clk latch rst : Pin) :
    (afterInitPins clk latch rst s).ctrl =
      (variantBit s.variant).zeroExtend 8 :=
  rfl
@[simp] theorem afterInitPins_dph (clk latch rst : Pin) : (afterInitPins clk latch rst s).dph = 0 := rfl
@[simp] theorem afterInitPins_pinClk (clk latch rst : Pin) : (afterInitPins clk latch rst s).pinClk = clk := rfl
@[simp] theorem afterInitPins_pinLatch (clk latch rst : Pin) : (afterInitPins clk latch rst s).pinLatch = latch := rfl
@[simp] theorem afterInitPins_pinRst (clk latch rst : Pin) : (afterInitPins clk latch rst s).pinRst = rst := rfl
@[simp] theorem afterInitPins_st (clk latch rst : Pin) : (afterInitPins clk latch rst s).st = s.st := rfl
@[simp] theorem afterInitPins_busy (clk latch rst : Pin) : (afterInitPins clk latch rst s).busy = s.busy := rfl
@[simp] theorem afterInitPins_seq (clk latch rst : Pin) : (afterInitPins clk latch rst s).seq = s.seq + 3 := rfl
@[simp] theorem afterInitPins_drv (clk latch rst : Pin) :
    (afterInitPins clk latch rst s).drv =
      insertPin rst false (insertPin latch false (insertPin clk false s.drv)) :=
  rfl
@[simp] theorem afterInitPins_held (clk latch rst : Pin) : (afterInitPins clk latch rst s).held = s.held := rfl
@[simp] theorem afterInitPins_sclk (clk latch rst : Pin) : (afterInitPins clk latch rst s).sclk = s.sclk := rfl
@[simp] theorem afterInitPins_mosi (clk latch rst : Pin) : (afterInitPins clk latch rst s).mosi = s.mosi := rfl
@[simp] theorem afterInitPins_rate (clk latch rst : Pin) : (afterInitPins clk latch rst s).rate = s.rate := rfl
@[simp] theorem afterInitPins_dev (clk latch rst : Pin) : (afterInitPins clk latch rst s).dev = s.dev := rfl
@[simp] theorem afterInitPins_trace (clk latch rst : Pin) :
    (afterInitPins clk latch rst s).trace =
      s.trace ++ [.oe clk, .oe latch, .oe rst] :=
  rfl
@[simp] theorem afterInitPins_fault (clk latch rst : Pin) : (afterInitPins clk latch rst s).fault = s.fault := rfl
@[simp] theorem afterInitPins_undef (clk latch rst : Pin) : (afterInitPins clk latch rst s).undef = s.undef := rfl
@[simp] theorem afterInitPins_draws (clk latch rst : Pin) : (afterInitPins clk latch rst s).draws = s.draws := rfl

/-! ## afterPwrdn -/

@[simp] theorem afterPwrdn_cfg : (afterPwrdn s).cfg = s.cfg := rfl
@[simp] theorem afterPwrdn_host : (afterPwrdn s).host = s.host := rfl
@[simp] theorem afterPwrdn_variant : (afterPwrdn s).variant = s.variant := rfl
@[simp] theorem afterPwrdn_calib : (afterPwrdn s).calib = s.calib := rfl
@[simp] theorem afterPwrdn_ctrl : (afterPwrdn s).ctrl = s.ctrl := rfl
@[simp] theorem afterPwrdn_dph : (afterPwrdn s).dph = s.dph := rfl
@[simp] theorem afterPwrdn_pinClk : (afterPwrdn s).pinClk = s.pinClk := rfl
@[simp] theorem afterPwrdn_pinLatch : (afterPwrdn s).pinLatch = s.pinLatch := rfl
@[simp] theorem afterPwrdn_pinRst : (afterPwrdn s).pinRst = s.pinRst := rfl
@[simp] theorem afterPwrdn_st : (afterPwrdn s).st = .poweredDown := rfl
@[simp] theorem afterPwrdn_busy : (afterPwrdn s).busy = s.busy := rfl
@[simp] theorem afterPwrdn_seq : (afterPwrdn s).seq = s.seq + 11 := rfl
@[simp] theorem afterPwrdn_drv : (afterPwrdn s).drv = insertPin s.pinLatch false s.drv := rfl
@[simp] theorem afterPwrdn_held : (afterPwrdn s).held = false := rfl
@[simp] theorem afterPwrdn_sclk : (afterPwrdn s).sclk = false := rfl
@[simp] theorem afterPwrdn_mosi : (afterPwrdn s).mosi = .unspecified := rfl
@[simp] theorem afterPwrdn_rate : (afterPwrdn s).rate = s.cfg.sclkHz := rfl
@[simp] theorem afterPwrdn_dev :
    (afterPwrdn s).dev =
      ((s.dev.pulsedOn s.pinRst s.pinClk s.pinLatch s.pinLatch s.draws).takeByte powerDownByte).pulsedOn
      s.pinRst s.pinClk s.pinLatch s.pinLatch (s.draws + 1) :=
  rfl
@[simp] theorem afterPwrdn_trace : (afterPwrdn s).trace = s.trace ++ framePd s.cfg s.pinLatch := rfl
@[simp] theorem afterPwrdn_fault : (afterPwrdn s).fault = s.fault := rfl
@[simp] theorem afterPwrdn_undef : (afterPwrdn s).undef = s.undef := rfl
@[simp] theorem afterPwrdn_draws : (afterPwrdn s).draws = s.draws + 2 := rfl

/-! ## State.loadDph -/

@[simp] theorem loadDph_cfg (f : Operand) : (s.loadDph f).cfg = s.cfg := rfl
@[simp] theorem loadDph_host (f : Operand) : (s.loadDph f).host = s.host := rfl
@[simp] theorem loadDph_variant (f : Operand) : (s.loadDph f).variant = s.variant := rfl
@[simp] theorem loadDph_calib (f : Operand) : (s.loadDph f).calib = s.calib := rfl
@[simp] theorem loadDph_ctrl (f : Operand) : (s.loadDph f).ctrl = s.ctrl := rfl
@[simp] theorem loadDph_dph (f : Operand) : (s.loadDph f).dph = computedDph f s.calib s.draws := rfl
@[simp] theorem loadDph_pinClk (f : Operand) : (s.loadDph f).pinClk = s.pinClk := rfl
@[simp] theorem loadDph_pinLatch (f : Operand) : (s.loadDph f).pinLatch = s.pinLatch := rfl
@[simp] theorem loadDph_pinRst (f : Operand) : (s.loadDph f).pinRst = s.pinRst := rfl
@[simp] theorem loadDph_st (f : Operand) : (s.loadDph f).st = s.st := rfl
@[simp] theorem loadDph_busy (f : Operand) : (s.loadDph f).busy = s.busy := rfl
@[simp] theorem loadDph_seq (f : Operand) : (s.loadDph f).seq = s.seq := rfl
@[simp] theorem loadDph_drv (f : Operand) : (s.loadDph f).drv = s.drv := rfl
@[simp] theorem loadDph_held (f : Operand) : (s.loadDph f).held = s.held := rfl
@[simp] theorem loadDph_sclk (f : Operand) : (s.loadDph f).sclk = s.sclk := rfl
@[simp] theorem loadDph_mosi (f : Operand) : (s.loadDph f).mosi = s.mosi := rfl
@[simp] theorem loadDph_rate (f : Operand) : (s.loadDph f).rate = s.rate := rfl
@[simp] theorem loadDph_dev (f : Operand) : (s.loadDph f).dev = s.dev := rfl
@[simp] theorem loadDph_trace (f : Operand) : (s.loadDph f).trace = s.trace := rfl
@[simp] theorem loadDph_fault (f : Operand) : (s.loadDph f).fault = s.fault := rfl
@[simp] theorem loadDph_undef (f : Operand) : (s.loadDph f).undef = (s.undef || s.calib == 0) := rfl
@[simp] theorem loadDph_draws (f : Operand) : (s.loadDph f).draws = s.draws + 1 := rfl

/-- The delta phase of R111 where the calibration is not 0. -/
theorem computedDph_of_ne (f : Operand) {c : Operand} (k : Nat) (h : c ≠ 0) : computedDph f c k = deltaPhase f c :=
  if_neg h

/-- A free value where the calibration is 0 (R112). -/
theorem computedDph_of_zero (f : Operand) {c : Operand} (k : Nat) (h : c = 0) :
    computedDph f c k = Config.draw32 k := if_pos h

end Sys2Proof.Machine
end

