-- ==== Sys2Proof/Laws/Datapath.lean ====
section
/-!
SUPPORT. What the delta-phase function is as a number.
-/

namespace Sys2Proof.Machine

/-- The exact product, the floor and the truncation of R111, in natural numbers. -/
theorem deltaPhase_toNat (f c : Nat) : (deltaPhase f c).toNat = f * 2 ^ 32 / c % 2 ^ 32 := by
  simp [deltaPhase, Nat.shiftLeft_eq]

end Sys2Proof.Machine
end

