-- ==== Sys2Proof/Laws/Decode.lean ====
section
/-!
SUPPORT. The fields of a value put together from its parts, in every build: what each field reads, and that the fields make
the value again.
-/

namespace Sys2Proof

theorem bitField_lt (v lo width : Nat) : bitField v lo width < 2 ^ width := Nat.mod_lt _ (Nat.two_pow_pos _)

/-- A field from bit 0 of a value that fits is the value. -/
theorem bitField_zero_of_lt {v width : Nat} (h : v < 2 ^ width) : bitField v 0 width = v := by
  simp [bitField, Nat.mod_eq_of_lt h]

/-- The low field of a value put together from a high and a low part. -/
theorem bitField_low {b lo : Nat} (a : Nat) (h : b < 2 ^ lo) : bitField (a * 2 ^ lo + b) 0 lo = b := by
  simp [bitField, Nat.mul_add_mod_self_right, Nat.mod_eq_of_lt h]

/-- The high field of a value put together from a high and a low part. -/
theorem bitField_high {a b lo width : Nat} (hb : b < 2 ^ lo) (ha : a < 2 ^ width) :
    bitField (a * 2 ^ lo + b) lo width = a := by
  rw [bitField, Nat.add_comm, Nat.add_mul_div_right _ _ (Nat.two_pow_pos _), Nat.div_eq_of_lt hb, Nat.zero_add,
    Nat.mod_eq_of_lt ha]

/-- A value that fits in two fields is those fields put together. -/
theorem bitField_append {v lo width : Nat} (h : v < 2 ^ (width + lo)) :
    bitField v lo width * 2 ^ lo + bitField v 0 lo = v := by
  have hd : v / 2 ^ lo < 2 ^ width := by
    rwa [Nat.div_lt_iff_lt_mul (Nat.two_pow_pos _), ← Nat.pow_add]
  rw [bitField, bitField, Nat.mod_eq_of_lt hd, Nat.pow_zero, Nat.div_one]
  exact Nat.div_add_mod' _ _

/-- A value put together from an 8-bit opcode and an OPW-bit operand fits in CMDW bits (R92). -/
theorem append_lt_cmdW (c : Config) (a : Opcode) {b : Nat} (hb : b < 2 ^ c.opW) :
    a.toNat * 2 ^ c.opW + b < 2 ^ c.cmdW := by
  have ha : a.toNat + 1 ≤ 2 ^ 8 := a.isLt
  rw [Config.cmdW, Nat.pow_add]
  calc a.toNat * 2 ^ c.opW + b < (a.toNat + 1) * 2 ^ c.opW := by
        rw [Nat.add_mul a.toNat 1, Nat.one_mul]; exact Nat.add_lt_add_left hb _
    _ ≤ 2 ^ 8 * 2 ^ c.opW := Nat.mul_le_mul_right _ ha

theorem opcodeField_append (c : Config) (a : Opcode) {b : Nat} (hb : b < 2 ^ c.opW) :
    opcodeField c (a.toNat * 2 ^ c.opW + b) = a := by
  rw [opcodeField, bitField_high hb a.isLt, BitVec.ofNat_toNat, BitVec.setWidth_eq]

theorem operandField_append (c : Config) (a : Opcode) {b : Nat} (hb : b < 2 ^ c.opW) :
    operandField c (a.toNat * 2 ^ c.opW + b) = b := bitField_low _ hb

/-- A word of CMDW bits is its opcode above its operand (R92). -/
theorem append_fields (c : Config) {w : Nat} (h : w < 2 ^ c.cmdW) :
    (opcodeField c w).toNat * 2 ^ c.opW + operandField c w = w := by
  rw [opcodeField, BitVec.toNat_ofNat, Nat.mod_eq_of_lt (bitField_lt _ _ _)]
  exact bitField_append h

/-- Decoding a word put together from its fields. -/
theorem decode_append (c : Config) (a : Opcode) {b : Nat} (hb : b < 2 ^ c.opW) :
    decode c (a.toNat * 2 ^ c.opW + b) = decodeFields c a b := by
  rw [decode, if_neg (Nat.not_le.2 (append_lt_cmdW c a hb)), opcodeField_append c a hb, operandField_append c a hb]

/-- The decoder depends on the two widths of a build and nothing else of it. -/
theorem decode_congr {c d : Config} (w : Nat) (h1 : c.opW = d.opW) (h2 : c.pinW = d.pinW) :
    decode c w = decode d w := by
  unfold decode decodeFields opcodeField operandField clkField latchField rstField initReserved Config.cmdW
  rw [h1, h2]

/-- Two fields of a pin's width side by side. -/
theorem pinPair_lt {p a b : Nat} (ha : a < 2 ^ p) (hb : b < 2 ^ p) : a * 2 ^ p + b < 2 ^ (2 * p) := by
  rw [Nat.two_mul, Nat.pow_add]
  calc a * 2 ^ p + b < (a + 1) * 2 ^ p := by
        rw [Nat.add_mul a 1, Nat.one_mul]; exact Nat.add_lt_add_left hb _
    _ ≤ 2 ^ p * 2 ^ p := Nat.mul_le_mul_right _ ha

/-- INIT's operand as its fields nested, {reserved, {rst, {latch, clk}}} (R94). -/
theorem initOperand_lt {p rst latch clk : Nat} (hr : rst < 2 ^ p) (hl : latch < 2 ^ p) (hc : clk < 2 ^ p) :
    rst * 2 ^ (2 * p) + (latch * 2 ^ p + clk) < 2 ^ (3 * p) := by
  rw [show 3 * p = p + 2 * p by omega, Nat.pow_add]
  calc rst * 2 ^ (2 * p) + (latch * 2 ^ p + clk) < (rst + 1) * 2 ^ (2 * p) := by
        rw [Nat.add_mul rst 1, Nat.one_mul]; exact Nat.add_lt_add_left (pinPair_lt hl hc) _
    _ ≤ 2 ^ p * 2 ^ (2 * p) := Nat.mul_le_mul_right _ hr

/-- The fields of an INIT operand put together from its parts (R94). -/
theorem initOperand_fields (c : Config) {z rst latch clk : Nat} (hz : z < 2 ^ (c.opW - 3 * c.pinW))
    (hr : rst < 2 ^ c.pinW) (hl : latch < 2 ^ c.pinW) (hc : clk < 2 ^ c.pinW) :
    let o := z * 2 ^ (3 * c.pinW) + (rst * 2 ^ (2 * c.pinW) + (latch * 2 ^ c.pinW + clk))
    clkField c o = clk ∧ latchField c o = latch ∧ rstField c o = rst ∧ initReserved c o = z := by
  intro o
  have ho : o = ((z * 2 ^ c.pinW + rst) * 2 ^ c.pinW + latch) * 2 ^ c.pinW + clk := by
    simp only [o, show 3 * c.pinW = c.pinW + c.pinW + c.pinW by omega, Nat.two_mul, Nat.pow_add]
    ring
  have ho2 : o = (z * 2 ^ c.pinW + rst) * 2 ^ (2 * c.pinW) + (latch * 2 ^ c.pinW + clk) := by
    rw [ho, Nat.two_mul, Nat.pow_add]
    ring
  refine ⟨by rw [ho]; exact bitField_low _ hc, ?_, ?_, bitField_high (initOperand_lt hr hl hc) hz⟩
  · rw [ho, latchField, bitField, Nat.add_comm, Nat.add_mul_div_right _ _ (Nat.two_pow_pos _), Nat.div_eq_of_lt hc,
      Nat.zero_add, Nat.mul_add_mod_self_right, Nat.mod_eq_of_lt hl]
  · rw [ho2, rstField, bitField, Nat.add_comm, Nat.add_mul_div_right _ _ (Nat.two_pow_pos _),
      Nat.div_eq_of_lt (pinPair_lt hl hc), Nat.zero_add, Nat.mul_add_mod_self_right, Nat.mod_eq_of_lt hr]

/-- An INIT operand is its reserved bits and its pin fields (R94). -/
theorem append_initFields (c : Config) {o : Nat} (hw : 3 * c.pinW ≤ c.opW) (h : o < 2 ^ c.opW) :
    initReserved c o * 2 ^ (3 * c.pinW) +
      (rstField c o * 2 ^ (2 * c.pinW) + (latchField c o * 2 ^ c.pinW + clkField c o)) = o := by
  have h1 : latchField c o * 2 ^ c.pinW + clkField c o = bitField o 0 (2 * c.pinW) := by
    have hm : bitField (bitField o 0 (2 * c.pinW)) c.pinW c.pinW = latchField c o := by
      simp only [latchField, bitField, Nat.pow_zero, Nat.div_one, Nat.two_mul, Nat.pow_add]
      rw [Nat.mod_mul_right_div_self, Nat.mod_mod]
    have hm0 : bitField (bitField o 0 (2 * c.pinW)) 0 c.pinW = clkField c o := by
      simp only [clkField, bitField, Nat.pow_zero, Nat.div_one, Nat.two_mul, Nat.pow_add]
      exact Nat.mod_mul_right_mod _ _ _
    rw [← hm, ← hm0]
    refine bitField_append ?_
    rw [← Nat.two_mul]
    exact bitField_lt _ _ _
  have h2 : rstField c o * 2 ^ (2 * c.pinW) + bitField o 0 (2 * c.pinW) = bitField o 0 (3 * c.pinW) := by
    have hm : bitField (bitField o 0 (3 * c.pinW)) (2 * c.pinW) c.pinW = rstField c o := by
      simp only [rstField, bitField, Nat.pow_zero, Nat.div_one, show 3 * c.pinW = 2 * c.pinW + c.pinW by omega,
        Nat.pow_add]
      rw [Nat.mod_mul_right_div_self, Nat.mod_mod]
    have hm0 : bitField (bitField o 0 (3 * c.pinW)) 0 (2 * c.pinW) = bitField o 0 (2 * c.pinW) := by
      simp only [bitField, Nat.pow_zero, Nat.div_one, show 3 * c.pinW = 2 * c.pinW + c.pinW by omega, Nat.pow_add]
      exact Nat.mod_mul_right_mod _ _ _
    rw [← hm, ← hm0]
    refine bitField_append ?_
    rw [show c.pinW + 2 * c.pinW = 3 * c.pinW by omega]
    exact bitField_lt _ _ _
  rw [h1, h2]
  refine bitField_append ?_
  rwa [show c.opW - 3 * c.pinW + 3 * c.pinW = c.opW by omega]

/-- The operand of a command whose operands fit has OPW bits. -/
theorem operandOf_lt {c : Config} (hw : 3 * c.pinW ≤ c.opW) {i : Instr} (h : i.wf c = true) :
    operandOf c i < 2 ^ c.opW := by
  cases i with
  | init clk latch rst =>
    simp only [Instr.wf, Config.pinFits, Bool.and_eq_true, decide_eq_true_eq] at h
    rw [operandOf, Nat.add_assoc]
    exact Nat.lt_of_lt_of_le (initOperand_lt h.2 h.1.2 h.1.1) (Nat.pow_le_pow_right (by decide) hw)
  | setfreq f => exact of_decide_eq_true h
  | calib x => exact of_decide_eq_true h
  | reset => exact Nat.two_pow_pos _
  | update => exact Nat.two_pow_pos _
  | pwrdn => exact Nat.two_pow_pos _
  | pwrup => exact Nat.two_pow_pos _

end Sys2Proof
end

