-- ==== Sys2Proof/Laws/Exec.lean ====
section
/-!
SUPPORT. What `exec` and `step` can answer, said once: a command raises the fault its conditions name and changes
nothing else, or it runs its script to the end.
-/

namespace Sys2Proof.Machine

/-- The fault a legal command raises in state `s` (R203, R204), if any. -/
def faultOf (i : Instr) (s : State) : Option FaultReason :=
  match i with
  | .init clk latch rst => (firstForbidden s.cfg clk latch rst).map .forbiddenPin
  | .calib _ => none
  | .reset => if s.st = .uninit then some (.uninitializedUse 0x02) else none
  | .setfreq _ => if s.st = .uninit then some (.uninitializedUse 0x03) else none
  | .update => if s.st = .uninit then some (.uninitializedUse 0x04) else none
  | .pwrdn => if s.st = .uninit then some (.uninitializedUse 0x06) else none
  | .pwrup => if s.st = .uninit then some (.uninitializedUse 0x07) else none

theorem isForbidden_iff (c : Config) (p : Pin) : isForbidden c p = true ↔ p = c.forbiddenA ∨ p = c.forbiddenB := by
  simp [isForbidden]

/-- `firstForbidden` as a case split in the order clk, lat, rst (R201). -/
theorem firstForbidden_eq (c : Config) (clk latch rst : Pin) :
    firstForbidden c clk latch rst =
      if isForbidden c clk = true then some clk
      else if isForbidden c latch = true then some latch
      else if isForbidden c rst = true then some rst
      else none := by
  simp only [firstForbidden, List.find?_cons, List.find?_nil]
  cases isForbidden c clk <;> cases isForbidden c latch <;> cases isForbidden c rst <;> rfl

/-- The state after a command's script has run. -/
def afterScript (i : Instr) (s : State) : State :=
  match i with
  | .init clk latch rst =>
    afterUpdate ((afterResetPulses (afterInitPins clk latch rst s)).loadDph (oneHz s.cfg))
  | .reset => afterUpdate ((afterResetPulses s).loadDph (oneHz s.cfg))
  | .setfreq f => afterUpdate (s.loadDph f)
  | .update => afterUpdate s
  | .calib x => { s with calib := x }
  | .pwrdn => afterPwrdn s
  | .pwrup => afterUpdate s

theorem run_commandScript (i : Instr) (s : State) : runScript (commandScript i) s = afterScript i s := by
  cases i with
  | init clk latch rst =>
    simp only [commandScript, afterScript, run_initScript, run_resetSeq]
    rfl
  | reset => simp only [commandScript, afterScript, run_resetSeq]
  | setfreq f => simp only [commandScript, afterScript, run_setFreqCore]
  | update => simp only [commandScript, afterScript, run_updateSeq]
  | calib x => rfl
  | pwrdn => simp only [commandScript, afterScript, run_pwrdnScript]
  | pwrup => simp only [commandScript, afterScript, run_updateSeq]

/-- Every command answers a next state: with its fault recorded, or with its script run. -/
theorem exec_eq (i : Instr) (s : State) :
    exec i s =
      match faultOf i s with
      | some r => .next (s.raise r)
      | none => .next (afterScript i s.accept).finish := by
  rw [← run_commandScript]
  cases i with
  | init clk latch rst =>
    simp only [exec, execInit, faultOf]
    cases firstForbidden s.cfg clk latch rst <;> rfl
  | calib x => rfl
  | reset => by_cases h : s.st = .uninit <;> simp [exec, execReset, unlessUninit, faultOf, h] <;> rfl
  | setfreq f => by_cases h : s.st = .uninit <;> simp [exec, execSetfreq, unlessUninit, faultOf, h] <;> rfl
  | update => by_cases h : s.st = .uninit <;> simp [exec, execUpdate, unlessUninit, faultOf, h] <;> rfl
  | pwrdn => by_cases h : s.st = .uninit <;> simp [exec, execPwrdn, unlessUninit, faultOf, h] <;> rfl
  | pwrup => by_cases h : s.st = .uninit <;> simp [exec, execPwrup, unlessUninit, faultOf, h] <;> rfl

/-- The two ways a command ends. -/
theorem exec_cases {i : Instr} {s t : State} (h : exec i s = .next t) :
    (∃ r, faultOf i s = some r ∧ t = s.raise r) ∨ (faultOf i s = none ∧ t = (afterScript i s.accept).finish) := by
  rw [exec_eq] at h
  split at h
  · rename_i r hr
    exact .inl ⟨r, hr, by simpa using h.symm⟩
  · rename_i hr
    exact .inr ⟨hr, by simpa using h.symm⟩

/-- ONE_HZ as a number (R114). -/
theorem oneHz_eq (c : Config) : oneHz c = 2 ^ c.opFrac := by simp [oneHz, Nat.shiftLeft_eq]

/-- NOMINAL as a number (R114). -/
theorem nominal_eq (c : Config) (v : Variant) : nominal c v = nominalHz v * 2 ^ c.opFrac := Nat.shiftLeft_eq _ _

/-- NOMINAL is never 0 (R231). -/
theorem nominal_ne_zero (c : Config) (v : Variant) : nominal c v ≠ 0 := by
  rw [nominal_eq]
  exact Nat.mul_ne_zero (by cases v <;> decide) (Nat.two_pow_pos _).ne'

/-- INIT's delta phase is that of 1 Hz at the nominal frequency, whatever the draw counter says (R130). -/
theorem init_computedDph (c : Config) (f : Operand) (v : Variant) (k : Nat) :
    computedDph f (nominal c v) k = deltaPhase f (nominal c v) := computedDph_of_ne f k (nominal_ne_zero c v)

/-! ## What no command changes -/

@[simp] theorem afterScript_cfg (i : Instr) (s : State) : (afterScript i s).cfg = s.cfg := by
  cases i <;> simp [afterScript]

@[simp] theorem afterScript_host (i : Instr) (s : State) : (afterScript i s).host = s.host := by
  cases i <;> simp [afterScript]

@[simp] theorem afterScript_variant (i : Instr) (s : State) : (afterScript i s).variant = s.variant := by
  cases i <;> simp [afterScript]

@[simp] theorem afterScript_busy (i : Instr) (s : State) : (afterScript i s).busy = s.busy := by
  cases i <;> simp [afterScript]

@[simp] theorem afterScript_fault (i : Instr) (s : State) : (afterScript i s).fault = s.fault := by
  cases i <;> simp [afterScript]

/-! ## Steps -/

/-- What a step that answers a next state has done: waited, recorded an illegal word, or run a command. -/
theorem step_cases {s t : State} (h : step s = .next t) :
    s.cfg.valid = true ∧ s.fault = none ∧
      ((takeCommand s = none ∧ t = s) ∨
        ∃ w u, takeCommand s = some (w, u) ∧
          ((∃ e, decode u.cfg w = .error e ∧ t = u.raise (.illegalCommand w)) ∨
            ∃ i, decode u.cfg w = .ok i ∧ exec i u = .next t)) := by
  unfold step at h
  split at h
  · simp at h
  · rename_i hv
    refine ⟨by simpa using hv, ?_⟩
    split at h
    · simp at h
    · rename_i hf
      refine ⟨hf, ?_⟩
      split at h
      · rename_i hn
        exact .inl ⟨hn, by simpa using h.symm⟩
      · rename_i w u hs
        refine .inr ⟨w, u, hs, ?_⟩
        split at h
        · rename_i i hd
          exact .inr ⟨i, hd, h⟩
        · rename_i e hd
          exact .inl ⟨e, hd, by simpa [takeFault] using h.symm⟩

end Sys2Proof.Machine
end

