-- ==== Sys2Proof/Laws/PerInstr.lean ====
section
/-!
SUPPORT. A statement about every command as syntax, one lemma per constructor: the two fields of its word are its
opcode and its operand (R92 to R96).
-/

namespace Sys2Proof.Laws.OpcodeField

open Sys2Proof

/-- In every build, OPC and OPND of the word of a command whose operands fit are the command's own. -/
def Statement (i : Instr) : Prop :=
  ∀ c : Config, 3 * c.pinW ≤ c.opW → i.wf c = true →
    opcodeField c (encode c i) = opcodeOf i ∧ operandField c (encode c i) = operandOf c i

theorem fields (i : Instr) : Statement i := fun c hw h =>
  ⟨opcodeField_append c _ (operandOf_lt hw h), operandField_append c _ (operandOf_lt hw h)⟩

theorem init (clk latch rst : Pin) : Statement (.init clk latch rst) := fields _

theorem reset : Statement .reset := fields _

theorem setfreq (f : Operand) : Statement (.setfreq f) := fields _

theorem update : Statement .update := fields _

theorem calib (x : Operand) : Statement (.calib x) := fields _

theorem pwrdn : Statement .pwrdn := fields _

theorem pwrup : Statement .pwrup := fields _

end Sys2Proof.Laws.OpcodeField
end

