-- ==== Sys2Proof/Laws/Receiver.lean ====
section
/-!
SUPPORT. What a latch pulse does to the reference receiver (R77): it leaves no bits, commits a whole frame, takes the
power-down byte, and does nothing where no bits were shifted.
-/

namespace Sys2Proof.Machine

/-- The opcode half and the operand half of SR after a frame (R76). -/
theorem append_low (b : Byte) (d : Phase) : (b ++ d : BitVec 40).extractLsb' 0 32 = d := by
  apply BitVec.eq_of_getLsbD_eq
  intro i hi
  simp only [BitVec.getLsbD_extractLsb', BitVec.getLsbD_append]
  interval_cases i <;> simp

theorem append_high (b : Byte) (d : Phase) : (b ++ d : BitVec 40).extractLsb' 32 8 = b := by
  apply BitVec.eq_of_getLsbD_eq
  intro i hi
  simp only [BitVec.getLsbD_extractLsb', BitVec.getLsbD_append]
  interval_cases i <;> simp

/-- Whatever a latch pulse does, it leaves no bits and no part of a reset sequence. -/
theorem pulsedOn_latch_rest (d : Receiver) (rst clk latch : Pin) (k : Nat) :
    (d.pulsedOn rst clk latch latch k).n = 0 ∧ (d.pulsedOn rst clk latch latch k).stage = .idle := by
  unfold Receiver.pulsedOn
  simp only [if_true]
  generalize (if latch = clk then _ else _ : Receiver) = x
  cases hx : x.stage <;> simp [Receiver.latchPulse, hx, Receiver.commit]

/-- At rest, a latch pulse on a pin that is not the reset pin is a commit. -/
theorem pulsedOn_latch_of_idle {d : Receiver} {rst latch : Pin} (clk : Pin) (k : Nat) (hs : d.stage = .idle)
    (hl : latch ≠ rst) : d.pulsedOn rst clk latch latch k = d.commit k := by
  unfold Receiver.pulsedOn
  have hx : (if latch = clk then d.strobePulse else d) = d := by split <;> simp [Receiver.strobePulse, hs]
  simp only [if_neg hl, if_true, hx, Receiver.latchPulse, hs]

/-- A commit of a whole frequency frame: the active registers take its word, and power-down ends. -/
theorem commit_takeWord {d : Receiver} (w : Phase) (c : Byte) (k : Nat) (hn : d.n = 0) (hs : d.stage = .idle) :
    (d.takeWord w c).commit k =
      { d with sr := c ++ w, n := 0, dphAct := w, ctrlAct := c, poweredDown := false, stage := .idle } := by
  simp [Receiver.commit, Receiver.takeWord, hn, hs, append_low, append_high]

/-- A commit of the power-down byte alone: power-down, the active registers as they were. -/
theorem commit_powerDown {d : Receiver} (k : Nat) (hn : d.n = 0) (hs : d.stage = .idle) :
    (d.takeByte 0x04).commit k =
      { d with sr := (0x04 : Byte) ++ d.sr.extractLsb' 8 32, n := 0, poweredDown := true, stage := .idle } := by
  simp [Receiver.commit, Receiver.takeByte, hn, hs, append_high]

/-- A commit with no bits shifted has no effect. -/
theorem commit_empty {d : Receiver} (k : Nat) (hn : d.n = 0) (hs : d.stage = .idle) : d.commit k = d := by
  cases d
  simp_all [Receiver.commit]

end Sys2Proof.Machine
end

