-- ==== Sys2Proof/Laws/Trace.lean ====
section
/-!
SUPPORT. The events a command appends to T, and what the readings of a trace do on appended traces.
-/

namespace Sys2Proof.Machine

/-- The events command `i` appends when it raises no fault. -/
def commandEvents (i : Instr) (s : State) : List Event :=
  match i with
  | .init clk latch rst =>
    [.oe clk, .oe latch, .oe rst] ++
      resetEvents s.cfg clk latch rst (afterScript (.init clk latch rst) s).dph ((variantBit s.variant).zeroExtend 8)
  | .reset => resetEvents s.cfg s.pinClk s.pinLatch s.pinRst (afterScript .reset s).dph s.ctrl
  | .setfreq f => frame5 s.cfg s.pinLatch (s.loadDph f).dph s.ctrl
  | .update => frame5 s.cfg s.pinLatch s.dph s.ctrl
  | .calib _ => []
  | .pwrdn => framePd s.cfg s.pinLatch
  | .pwrup => frame5 s.cfg s.pinLatch s.dph s.ctrl

theorem afterScript_trace (i : Instr) (s : State) : (afterScript i s).trace = s.trace ++ commandEvents i s := by
  cases i <;> simp only [commandEvents, afterScript, resetEvents] <;> simp

/-! ## The bus bracket -/

@[simp] theorem busScan_none (es : List Event) : busScan none es = none := by cases es <;> rfl

theorem busScan_append (h : Option Bool) (a b : List Event) : busScan h (a ++ b) = busScan (busScan h a) b := by
  induction a generalizing h with
  | nil => cases h <;> simp [busScan]
  | cons e a ih =>
    cases h with
    | none => simp
    | some h => cases e <;> simp only [List.cons_append, busScan] <;> (try split) <;> simp [ih]

/-! ## Frames -/

/-- After a trace whose bracket is closed, the frames of what follows are read on their own. -/
theorem framesFrom_append (t u : List Event) (o : Option (List Byte)) (h : busScan (some o.isSome) t = some false) :
    framesFrom o (t ++ u) = framesFrom o t ++ framesFrom none u := by
  induction t generalizing o with
  | nil => cases o <;> simp [busScan] at h; simp [framesFrom]
  | cons e t ih =>
    cases o with
    | none =>
      cases e <;> simp only [busScan, Option.isSome_none, Bool.false_eq_true, if_false] at h <;>
        simp only [List.cons_append, framesFrom]
      case byte => simp at h
      case endBus => simp at h
      all_goals exact ih _ h
    | some g =>
      cases e <;> simp only [busScan, Option.isSome_some, if_true] at h <;>
        simp only [List.cons_append, framesFrom]
      case beginBus => simp at h
      case endBus => rw [ih none h]
      all_goals exact ih _ h

theorem frames_append {t : List Event} (u : List Event) (h : busScan (some false) t = some false) :
    frames (t ++ u) = frames t ++ frames u := framesFrom_append t u none h

theorem frames_frame5 (c : Config) (p : Pin) (d : Phase) (b : Byte) : frames (frame5 c p d b) = [frameBytes d b] := by
  simp [frames, frame5, frameBytes, pulseEvents, framesFrom]

theorem frames_resetEvents (c : Config) (clk latch rst : Pin) (d : Phase) (b : Byte) :
    frames (resetEvents c clk latch rst d b) = [frameBytes d b] := by
  simp [frames, resetEvents, frame5, frameBytes, pulseEvents, framesFrom]

theorem frames_framePd (c : Config) (p : Pin) : frames (framePd c p) = [[powerDownByte]] := by
  simp [frames, framePd, pulseEvents, framesFrom]

/-! ## Drives -/

theorem traceDrive_append (p : Pin) (d : Drive) (a b : List Event) :
    traceDrive p d (a ++ b) = traceDrive p (traceDrive p d a) b := by
  induction a generalizing d with
  | nil => rfl
  | cons e a ih => cases e <;> simp [traceDrive, ih]

end Sys2Proof.Machine
end

