-- ==== Sys2Proof/Laws/Within.lean ====
section
/-!
SUPPORT. What holds within a command: a property that every elementary action keeps holds after every prefix of every
command's script, and scripts only append to the trace.
-/

namespace Sys2Proof.Machine

/-- Every action of the script keeps `P`. -/
def Kept (P : State → Prop) (a : Script) : Prop := ∀ act ∈ a, ∀ t, P t → P (act t)

@[simp] theorem kept_nil (P : State → Prop) : Kept P [] := by simp [Kept]

@[simp] theorem kept_cons (P : State → Prop) (act : State → State) (a : Script) :
    Kept P (act :: a) ↔ (∀ t, P t → P (act t)) ∧ Kept P a := by
  simp [Kept]

@[simp] theorem kept_append (P : State → Prop) (a b : Script) : Kept P (a ++ b) ↔ Kept P a ∧ Kept P b := by
  simp only [Kept, List.forall_mem_append]

/-- A kept property holds at the end of the script. -/
theorem Kept.run {P : State → Prop} {a : Script} (h : Kept P a) {s : State} (h0 : P s) : P (runScript a s) := by
  have := (Along.of_kept h0 h).take a.length
  rwa [List.take_length] at this

/-- A kept property holds after every prefix of a command. -/
theorem Kept.midCommand {P : State → Prop} {a : Script} (h : Kept P a) {s : State} (h0 : P s.accept) (k : Nat) :
    P (midCommand a k s) := (Along.of_kept h0 h).take k

/-- What is asked of `P` for every command's script to keep it: each elementary action keeps it. -/
structure KeptByActions (P : State → Prop) : Prop where
  emit : ∀ s e, P s → P (s.emit e)
  beginBus : ∀ s, P s → P (beginBus s)
  endBus : ∀ s, P s → P (endBus s)
  setMosi : ∀ s b, P s → P (setMosi b s)
  raiseSclk : ∀ s, P s → P (raiseSclk s)
  lowerSclk : ∀ s, P s → P (lowerSclk s)
  releaseMosi : ∀ s, P s → P (releaseMosi s)
  outputEnable : ∀ s src, P s → P (outputEnable src s)
  drivePin : ∀ s src v, P s → P (drivePin src v s)
  holdFor : ∀ s width, P s → P (holdFor width s)
  active : ∀ s, P s → P (s.setSt .active)
  initRegisters : ∀ s clk latch rst, P s → P (initRegisters clk latch rst s)
  loadDph : ∀ s f, P s → P (s.loadDph f)
  setCalib : ∀ s x, P s → P { s with calib := x }

namespace KeptByActions

variable {P : State → Prop} (h : KeptByActions P)

include h

theorem byteOut (src : State → Byte) : Kept P (byteOut src) := by
  simp only [Machine.byteOut, bitOut, kept_append, kept_cons, kept_nil, and_true]
  refine ⟨⟨fun t => h.emit t _, ?_⟩, fun t => h.releaseMosi t⟩
  have hb : ∀ i : Nat, (∀ t, P t → P (Machine.setMosi ((src t).getLsbD i) t)) ∧
      (∀ t, P t → P (Machine.raiseSclk t)) ∧ ∀ t, P t → P (Machine.lowerSclk t) := fun i =>
    ⟨fun t => h.setMosi t _, fun t => h.raiseSclk t, fun t => h.lowerSclk t⟩
  exact ⟨⟨⟨⟨⟨⟨⟨hb 0, hb 1⟩, hb 2⟩, hb 3⟩, hb 4⟩, hb 5⟩, hb 6⟩, hb 7⟩

theorem pulse (src : State → Pin) (width : Config → Duration) : Kept P (pulse src width) := by
  simp only [Machine.pulse, kept_cons, kept_nil, and_true]
  exact ⟨fun t => h.drivePin t _ _, fun t => h.holdFor t _, fun t => h.drivePin t _ _, fun t => h.holdFor t _⟩

theorem updateSeq : Kept P updateSeq := by
  simp only [Machine.updateSeq, kept_append, kept_cons, kept_nil, and_true, h.byteOut, h.pulse]
  exact ⟨fun t => h.beginBus t, fun t => h.endBus t, fun t => h.active t⟩

theorem setFreqCore (f : Config → Operand) : Kept P (setFreqCore f) := by
  simp only [Machine.setFreqCore, kept_append, kept_cons, kept_nil, and_true, h.updateSeq]
  exact fun t => h.loadDph t _

theorem resetSeq (hr : ∀ s, P s → P (s.setSt .resetting)) : Kept P resetSeq := by
  simp only [Machine.resetSeq, kept_append, kept_cons, kept_nil, and_true, h.setFreqCore, h.pulse]
  exact hr

/-- A property that every elementary action keeps, and the two changes of ST a command makes, holds along the
command. -/
theorem command (i : Instr)
    (hr : i = .reset ∨ (∃ clk latch rst, i = .init clk latch rst) → ∀ s, P s → P (s.setSt .resetting))
    (hp : i = .pwrdn → ∀ s, P s → P (s.setSt .poweredDown)) : Kept P (commandScript i) := by
  cases i with
  | init clk latch rst =>
    simp only [commandScript, initScript, kept_append, kept_cons, kept_nil, and_true]
    exact ⟨⟨fun t => h.initRegisters t _ _ _, fun t => h.outputEnable t _, fun t => h.outputEnable t _,
      fun t => h.outputEnable t _⟩, h.resetSeq (hr (.inr ⟨_, _, _, rfl⟩))⟩
  | reset => exact h.resetSeq (hr (.inl rfl))
  | setfreq f => exact h.setFreqCore fun _ => f
  | update => exact h.updateSeq
  | calib x => simpa [commandScript, calibScript] using fun t => h.setCalib t x
  | pwrdn =>
    simp only [commandScript, pwrdnScript, kept_append, kept_cons, kept_nil, and_true, true_and, h.byteOut, h.pulse]
    exact ⟨⟨fun t => h.beginBus t, fun t => h.endBus t⟩, hp rfl⟩
  | pwrup => exact h.updateSeq

end KeptByActions

/-! ## The trace -/

/-- `drivePin` appends one event and changes no register; the pin takes the level. -/
theorem drivePin_spec (src : State → Pin) (v : Bool) (s : State) :
    ∃ d k, drivePin src v s =
      { s with trace := s.trace ++ [.pin (src s) v], seq := s.seq + 1, drv := insertPin (src s) v s.drv,
               dev := d, draws := k } := by
  unfold drivePin
  simp only
  split
  · exact ⟨_, _, rfl⟩
  · exact ⟨_, _, rfl⟩

/-- What every action does to what the host and the trace see: it appends to T, advancing SEQ by the events it
appends. -/
def Extends (s0 s : State) : Prop := ∃ es, s.trace = s0.trace ++ es ∧ s.seq = s0.seq + es.length

theorem Extends.refl (s : State) : Extends s s := ⟨[], by simp, by simp⟩

theorem Extends.one {s0 s t : State} {e : Event} (h : Extends s0 s) (ht : t.trace = s.trace ++ [e])
    (hq : t.seq = s.seq + 1) : Extends s0 t := by
  obtain ⟨es, h1, h2⟩ := h
  exact ⟨es ++ [e], by rw [ht, h1, List.append_assoc], by rw [hq, h2]; simp; omega⟩

theorem extends_keptByActions (s0 : State) : KeptByActions (Extends s0) where
  emit _ _ h := h.one rfl rfl
  beginBus _ h := h.one rfl rfl
  endBus _ h := h.one rfl rfl
  setMosi _ _ h := h
  raiseSclk _ h := h
  lowerSclk _ h := h
  releaseMosi _ h := h
  outputEnable _ _ h := h.one rfl rfl
  drivePin s src v h := by
    obtain ⟨d, k, hd⟩ := drivePin_spec src v s
    rw [hd]
    exact h.one rfl rfl
  holdFor _ _ h := h.one rfl rfl
  active _ h := h
  initRegisters _ _ _ _ h := h
  loadDph _ _ h := h
  setCalib _ _ h := h

/-- From any point within a command to its end, T is only appended to. -/
theorem run_drop_extends (i : Instr) (k : Nat) (s : State) :
    ∃ es, (runScript ((commandScript i).drop k) s).trace = s.trace ++ es := by
  have hk : Kept (Extends s) ((commandScript i).drop k) := fun act ha =>
    (extends_keptByActions s).command i (fun _ _ h => h) (fun _ _ h => h) act (List.mem_of_mem_drop ha)
  obtain ⟨es, h, _⟩ := hk.run (Extends.refl s)
  exact ⟨es, h⟩

/-- What no action changes within a command. -/
theorem fixed_keptByActions (s0 : State) :
    KeptByActions fun s => s.busy = s0.busy ∧ s.cfg = s0.cfg ∧ s.variant = s0.variant ∧ s.fault = s0.fault ∧
      s.host = s0.host where
  emit _ _ h := h
  beginBus _ h := h
  endBus _ h := h
  setMosi _ _ h := h
  raiseSclk _ h := h
  lowerSclk _ h := h
  releaseMosi _ h := h
  outputEnable _ _ h := h
  drivePin s src v h := by
    obtain ⟨d, k, hd⟩ := drivePin_spec src v s
    rw [hd]
    exact h
  holdFor _ _ h := h
  active _ h := h
  initRegisters _ _ _ _ h := h
  loadDph _ _ h := h
  setCalib _ _ h := h

end Sys2Proof.Machine
end

