-- ==== Sys2Proof/Tests/Slice0.lean ====
section
/-!
SUPPORT. Tests of the model against spec/95_test_vectors.md (the vector's name stands in each comment), the smoke test of
WellFormed, and for each obligation with hypotheses a state and operands that meet them.
-/

namespace Sys2Proof.Tests

open Sys2Proof Sys2Proof.Machine

/-! ## Small states -/

/-- A build with the given strap and the fixed parameters of spec/95 section 1. -/
def build (v : Variant) : Config := { Config.default with variantSel := v }

/-- The end of V-INIT1: Type A, pins 8, 9, 10, holding the 1 Hz word. -/
def readyA : State :=
  { State.powerOn (build .typeA) with
    calib := 125000000, ctrl := 0x00, dph := 0x22, pinClk := 8, pinLatch := 9, pinRst := 10, st := .active,
    drv := [(8, false), (9, false), (10, false)],
    trace := [.oe 8, .oe 9, .oe 10] ++ resetEvents (build .typeA) 8 9 10 0x22 0x00,
    dev := { Receiver.fresh with sr := 0x22, dphAct := 0x22 } }

/-- The end of V-INIT2: Type B. -/
def readyB : State :=
  { State.powerOn (build .typeB) with
    calib := 180000000, ctrl := 0x01, dph := 0x17, pinClk := 8, pinLatch := 9, pinRst := 10, st := .active,
    drv := [(8, false), (9, false), (10, false)],
    trace := [.oe 8, .oe 9, .oe 10] ++ resetEvents (build .typeB) 8 9 10 0x17 0x01,
    dev := { Receiver.fresh with sr := 0x0100000017, dphAct := 0x17, ctrlAct := 0x01 } }

/-- Two fields of the next state, or none where there is none. -/
def look (f : State → α) (o : Host.Outcome State Fault Refusal) : Option α :=
  match o with
  | .next t => some (f t)
  | .fault _ => none
  | .refused _ => none

/-- The bytes of the last frame sent. -/
def lastFrame (s : State) : Option (List Byte) := (frames s.trace).getLast?

/-! ## WellFormed smoke: each check refuses an ill-formed term -/

theorem test_wf_default : Config.default.valid = true := by decide

theorem test_wf_widths : ({ Config.default with opFrac := 5 } : Config).widthsOk = false := by decide

theorem test_wf_widths_edge : ({ Config.default with opFrac := 4 } : Config).valid = true := by decide

theorem test_wf_widths_pins : ({ Config.default with pinW := 11 } : Config).widthsOk = false := by decide

/-- A build with wider operands and finer frequencies. -/
theorem test_wf_wide : ({ Config.default with opW := 40, opFrac := 12, pinW := 13 } : Config).valid = true := by decide

theorem test_wf_rate : ({ Config.default with sclkHz := 1000000 } : Config).rateOk = false := by decide

theorem test_wf_reset_pulse : ({ Config.default with tRstPw := 0 } : Config).pulsesOk = false := by decide

theorem test_wf_pulse : ({ Config.default with tPw := 0 } : Config).pulsesOk = false := by decide

theorem test_wf_pins : ({ Config.default with forbiddenB := 11 } : Config).pinsOk = false := by decide

theorem test_wf_pin_range : ({ Config.default with forbiddenB := 256 } : Config).pinsOk = false := by decide

theorem test_wf_init :
    Instr.wf Config.default (.init 256 9 10) = false ∧ Instr.wf Config.default (.init 8 256 10) = false ∧
    Instr.wf Config.default (.init 8 9 256) = false ∧ Instr.wf Config.default (.init 255 255 255) = true := by decide

theorem test_wf_operand :
    Instr.wf Config.default (.setfreq (2 ^ 32)) = false ∧ Instr.wf Config.default (.calib (2 ^ 32)) = false := by decide

theorem test_wf_step_refuses :
    step (State.powerOn { Config.default with tPw := 0 }) = .refused .invalidConfig := rfl

theorem test_legal_opcode_zero : CmdWord.legal Config.default 0x0000000000 = false := by decide

theorem test_legal_opcode_eight : CmdWord.legal Config.default 0x0800000000 = false := by decide

theorem test_legal_operand : CmdWord.legal Config.default 0x0480000000 = false := by decide

theorem test_legal_init_reserved : CmdWord.legal Config.default 0x01010A0908 = false := by decide

theorem test_legal_width : CmdWord.legal Config.default (2 ^ 40 + 0x0200000000) = false := by decide

/-! ## Decoding: words of spec/95 section 2.2 and the encodings of spec/opcode_table.json -/

/-- V-DEC1. -/
theorem test_decode_init : decode Config.default 0x01000A0908 = .ok (.init 8 9 10) := by decide

/-- V-DEC3. -/
theorem test_decode_reset : decode Config.default 0x0200000000 = .ok .reset := by decide

/-- V-SF1, V-DEC5. -/
theorem test_decode_setfreq :
    decode Config.default 0x0300989680 = .ok (.setfreq 10000000) ∧ decode Config.default 0x03FFFFFFFF = .ok (.setfreq 4294967295) := by decide

/-- V-DEC6. -/
theorem test_decode_update : decode Config.default 0x0400000000 = .ok .update := by decide

/-- V-CAL1, V-DEC8. -/
theorem test_decode_calib :
    decode Config.default 0x050ABA9118 = .ok (.calib 179999000) ∧ decode Config.default 0x0500000000 = .ok (.calib 0) := by decide

/-- V-DEC9. -/
theorem test_decode_pwrdn : decode Config.default 0x0600000000 = .ok .pwrdn := by decide

/-- V-DEC9. -/
theorem test_decode_pwrup : decode Config.default 0x0700000000 = .ok .pwrup := by decide

/-- The bits of the table's row INIT, written out: r = 10, l = 9, c = 8. -/
theorem test_decode_init_bits :
    decode Config.default 0b0000000100000000000010100000100100001000 = .ok (.init 8 9 10) := by decide

/-- The bits of the table's row CALIB, written out. -/
theorem test_decode_calib_bits :
    decode Config.default 0b0000010100000000000000000000000000000001 = .ok (.calib 1) := by decide

/-- V-DEC2, V-DEC4, V-DEC7, V-DEC10 to V-DEC13. -/
theorem test_decode_illegal :
    decode Config.default 0x01010A0908 = .error (.reservedInitBits 0x010A0908) ∧
    decode Config.default 0x0200000001 = .error (.operandNotZero 0x02 1) ∧
    decode Config.default 0x0480000000 = .error (.operandNotZero 0x04 0x80000000) ∧
    decode Config.default 0x0600000004 = .error (.operandNotZero 0x06 4) ∧
    decode Config.default 0x0000000000 = .error (.reservedOpcode 0x00) ∧
    decode Config.default 0x0800000000 = .error (.reservedOpcode 0x08) ∧
    decode Config.default 0xFFFFFFFFFF = .error (.reservedOpcode 0xFF) := by decide

/-- R92, R94 with OPW = 36 and PIN_W = 10: OPC above 36 operand bits, three fields of 10 bits. -/
theorem test_decode_wide :
    let c := { Config.default with opW := 36, pinW := 10, opFrac := 8 }
    decode c (0x01 * 2 ^ 36 + (3 * 2 ^ 20 + 1023 * 2 ^ 10 + 5)) = .ok (.init 5 1023 3) ∧
    decode c (0x03 * 2 ^ 36 + (2 ^ 36 - 1)) = .ok (.setfreq (2 ^ 36 - 1)) ∧
    decode c (0x01 * 2 ^ 36 + 2 ^ 30) = .error (.reservedInitBits (2 ^ 30)) ∧
    decode c (2 ^ 44) = .error (.tooWide (2 ^ 44)) := by decide

/-- A table word shorter than the command word has zeros above. -/
theorem test_table_word :
    decodeTableWord 40 0x0700000000 = some .pwrup ∧ decodeTableWord 8 0xFF05 = none := by decide

/-! ## One step each -/

/-- V-INIT1: the registers. -/
theorem test_init_registers :
    look (fun t => ((t.pinClk, t.pinLatch, t.pinRst), t.calib, t.ctrl, t.dph, t.st))
      (step ((State.powerOn (build .typeA)).withFetchWord 40 0x01000A0908)) =
      some ((8, 9, 10), 125000000, 0x00, 0x00000022, .active) := by decide

/-- V-INIT2: the full trace. -/
theorem test_init_trace :
    look State.trace (step ((State.powerOn (build .typeB)).withFetchWord 40 0x01000A0908)) =
      some [.oe 8, .oe 9, .oe 10,
        .pin 10 true, .hold 1000000, .pin 10 false, .hold 1000000,
        .pin 8 true, .hold 1000000, .pin 8 false, .hold 1000000,
        .pin 9 true, .hold 1000000, .pin 9 false, .hold 1000000,
        .beginBus 8000000, .byte 0x17, .byte 0x00, .byte 0x00, .byte 0x00, .byte 0x01,
        .pin 9 true, .hold 1000000, .pin 9 false, .hold 1000000, .endBus] := by decide

/-- V-INIT6: two reserved pins, the first in the order clk, lat, rst is recorded. -/
theorem test_init_forbidden :
    look (fun t => (t.fault, t.st, t.trace)) (exec (.init 12 11 10) (State.powerOn (build .typeA))) =
      some (some (.forbiddenPin 12), .uninit, []) := by decide

/-- V-RST3: the 1 Hz word of the calibration in force. -/
theorem test_reset :
    look (fun t => (t.dph, t.st, lastFrame t)) (exec .reset { readyA with calib := 100000000 }) =
      some (0x0000002A, .active, some [0x2A, 0x00, 0x00, 0x00, 0x00]) := by decide

/-- V-RST7. -/
theorem test_reset_uninit :
    look State.fault (exec .reset State.reset) = some (some (.uninitializedUse 0x02)) := by decide

/-- V-SF1. -/
theorem test_setfreq :
    look (fun t => (t.dph, lastFrame t)) (exec (.setfreq 10000000) readyA) =
      some (0x147AE147, some [0x47, 0xE1, 0x7A, 0x14, 0x00]) := by decide

/-- V-SF7: the largest operand wraps. -/
theorem test_setfreq_wraps :
    look (fun t => (t.dph, t.undef)) (exec (.setfreq 0xFFFFFFFF) readyA) = some (0x5C17D02B, false) := by decide

/-- V-UP4: UPDATE wakes the device with the stored word. -/
theorem test_update :
    look (fun t => (t.st, lastFrame t)) (exec .update { readyA with st := .poweredDown }) =
      some (.active, some [0x22, 0x00, 0x00, 0x00, 0x00]) := by decide

/-- V-CAL3: 0 is stored, DPH and UNDEF stay. -/
theorem test_calib :
    look (fun t => (t.calib, t.dph, t.undef, t.st)) (exec (.calib 0) readyA) =
      some (0, 0x22, false, .active) := by decide

/-- V-CAL2: accepted before INIT. -/
theorem test_calib_uninit :
    look (fun t => (t.calib, t.st, t.fault)) (exec (.calib 100000000) State.reset) =
      some (100000000, .uninit, none) := by decide

/-- V-PD2: the byte is 0x04 for Type B too, and CTRL stays. -/
theorem test_pwrdn :
    look (fun t => (t.st, t.ctrl, lastFrame t)) (exec .pwrdn readyB) =
      some (.poweredDown, 0x01, some [0x04]) := by decide

/-- V-PD1: the events. -/
theorem test_pwrdn_events :
    look (fun t => t.trace.drop 26) (exec .pwrdn readyA) =
      some [.pin 9 true, .hold 1000000, .pin 9 false, .hold 1000000, .beginBus 8000000, .byte 0x04, .endBus,
        .pin 9 true, .hold 1000000, .pin 9 false, .hold 1000000] := by decide

/-- V-PU1. -/
theorem test_pwrup :
    look (fun t => (t.st, lastFrame t)) (exec .pwrup { readyA with st := .poweredDown, dph := 0x147AE147 }) =
      some (.active, some [0x47, 0xE1, 0x7A, 0x14, 0x00]) := by decide

/-- R64, R65: the 40 wire bits of V-SF1 begin with 0x47, least significant bit first. -/
theorem test_wire_bits :
    (wireBits (frame5 (build .typeA) 9 0x147AE147 0x00)).take 8 =
      [true, true, true, false, false, false, true, false] := by decide

set_option maxRecDepth 100000 in
/-- R76, R77: the receiver takes the word and leaves power-down. -/
theorem test_receiver :
    look (fun t => (t.dev.dphAct, t.dev.ctrlAct, t.dev.poweredDown, t.dev.n))
      (exec (.setfreq 10000000) { readyA with dev := { readyA.dev with poweredDown := true } }) =
      some (0x147AE147, 0x00, false, 0) := by decide

set_option maxRecDepth 100000 in
/-- R77: the device goes to power-down and keeps its word. -/
theorem test_receiver_power_down :
    look (fun t => (t.dev.dphAct, t.dev.poweredDown)) (exec .pwrdn readyB) = some (0x17, true) := by decide

set_option maxRecDepth 100000 in
/-- V-DP7, V-DP8, V-DP21, V-DP23. -/
theorem test_delta_phase :
    deltaPhase 124999999 125000000 = 0xFFFFFFDD ∧ deltaPhase 125000000 125000000 = 0 ∧
    deltaPhase 0xFFFFFFFE 0xFFFFFFFF = 0xFFFFFFFE ∧ deltaPhase 5 3 = 0xAAAAAAAA := by decide

set_option maxRecDepth 100000 in
/-- V-DP3 by the divider of R115. -/
theorem test_restoring_divider : restoringDeltaPhase 32 10000000 125000000 = 0x147AE147 := by decide

/-- R114 with OP_FRAC = 8, OPW = 36: CALIB is nominal in units of 1/256 Hz, and the 1 Hz word is that of V-DP2. -/
theorem test_init_wide :
    look (fun t => (t.calib, t.dph))
      (exec (.init 8 9 10) (State.powerOn { build .typeB with opW := 36, opFrac := 8 })) =
      some (180000000 * 256, 0x00000017) := by decide

/-- V-DP26. -/
theorem test_delta_phase_scaled : deltaPhase (10000000 * 16) (125000000 * 16) = 0x147AE147 := by decide

/-- R34: 1010 within a command of Type A in ACTIVE. -/
theorem test_stat : (State.powerOn (build .typeB)).stat = 0b0100 ∧ { readyA with busy := true }.stat = 0b1010 := by
  decide

/-- R101. -/
theorem test_assembler :
    (parseLine "SETFREQ 10000000".toList).bind (AsmLine.assemble (build .typeA)) = some 0x0300989680 ∧
    (parseLine "INIT 8, 9, 0x0a ; the pins".toList).bind (AsmLine.assemble (build .typeA)) = some 0x01000A0908 := by
  decide

/-- R101: an assembler does not round. -/
theorem test_assembler_refuses :
    (parseLine "SETFREQ 1.5".toList).bind (AsmLine.assemble (build .typeA)) = none ∧
    (parseLine "INIT 8, 9, 256".toList).bind (AsmLine.assemble (build .typeA)) = none := by decide

/-! ## Witnesses: the hypotheses of each obligation are met -/

/-- A Type A block after power-on. -/
def fresh : State := State.powerOn (build .typeA)

theorem witness_EncodeDecodeRoundTrip :
    Config.default.widthsOk = true ∧ decode Config.default 0x0100FFFFFF = .ok (.init 255 255 255) ∧
    decode Config.default 0x05FFFFFFFF = .ok (.calib 0xFFFFFFFF) := by decide

theorem witness_DecodeEncodeRoundTrip :
    let c := { Config.default with opW := 36, opFrac := 8, pinW := 12 }
    c.widthsOk = true ∧ Instr.wf c (.init 4095 0 4095) = true ∧ Instr.wf c (.calib (2 ^ 36 - 1)) = true := by decide

theorem witness_DecoderAcceptsExactlyLegalWords : Config.default.widthsOk = true := by decide

theorem witness_VectorWordsDecodeAsListed : Config.default.opW = 32 ∧ Config.default.pinW = 8 := by decide

theorem witness_StatShowsBusyVariantAndState :
    State.reset.st = .uninit ∧ { readyA with st := .resetting }.st = .resetting ∧ readyA.st = .active ∧
      { readyA with st := .poweredDown }.st = .poweredDown ∧ (build .typeA).variantSel = .typeA ∧
      (build .typeB).variantSel = .typeB := by decide

theorem witness_AssemblerEncodesOrRefuses :
    (4294967295 * 10 ^ 0 = 4294967295 * 2 ^ 0 ∧ 4294967295 < 2 ^ 32) ∧
    (let n : AsmNumber := ⟨15, 1⟩; 3 * 10 ^ n.places = n.digits * 2 ^ 1 ∧ 3 < 2 ^ 32) ∧
    (let n : AsmNumber := ⟨15, 1⟩; ∀ v : Nat, v < 2 ^ 32 → v * 10 ^ n.places ≠ n.digits * 2 ^ 0) ∧
    (let n : AsmNumber := ⟨2 ^ 32, 0⟩; ∀ v : Nat, v < 2 ^ 32 → v * 10 ^ n.places ≠ n.digits * 2 ^ 0) := by
  refine ⟨by decide, by decide, ?_, ?_⟩ <;> intro n v hv <;> simp only [n] <;> omega

theorem witness_StepRunsTheDecodedCommand :
    let s := { readyA with host := [0x0400000000] }
    s.cfg.valid = true ∧ s.fault = none ∧ s.busy = false ∧ s.host = [0x0400000000] ∧
      decode s.cfg 0x0400000000 = .ok .update := by decide

theorem witness_IllegalWordOnlyRecordsItself :
    let s := { fresh with host := [0x0200000001, 0x0200000000] }
    s.cfg.valid = true ∧ s.fault = none ∧ s.busy = false ∧ s.host = [0x0200000001, 0x0200000000] ∧
      CmdWord.legal s.cfg 0x0200000001 = false := by decide

theorem witness_PortTakesNothingUnlessReady :
    (fresh.cfg.valid = true ∧ fresh.fault = none ∧ fresh.host = []) ∧
    (let s := { readyA with busy := true, host := [0x0400000000] }
     s.cfg.valid = true ∧ s.fault = none ∧ s.busy = true) := by decide

theorem witness_FaultedStateIsQuiescent :
    let s := { fresh with fault := some (.forbiddenPin 11) }
    s.cfg.valid = true ∧ s.fault = some (.forbiddenPin 11) := by decide

theorem witness_BadConfigurationIsRefused :
    (let s := State.powerOn { Config.default with opFrac := 5 }; s.cfg.opW < 28 + s.cfg.opFrac) ∧
    (let s := State.powerOn { Config.default with pinW := 11 }; s.cfg.opW < 3 * s.cfg.pinW) ∧
    (State.powerOn { Config.default with tRstPw := 0 }).cfg.tRstPw = 0 ∧
    (State.powerOn { Config.default with tPw := 0 }).cfg.tPw = 0 := by decide

theorem witness_PresentedTableWordRunsNext :
    fresh.cfg.valid = true ∧
    (fresh.cfg.opW = 32 ∧ fresh.cfg.pinW = 8 ∧ decodeTableWord 40 0x0100FFFFFF = some (.init 255 255 255)) ∧
    (let s := State.powerOn { Config.default with opW := 36 }
     s.cfg.valid = true ∧ decode s.cfg (tableWord 44 (0x02 * 2 ^ 36)) = .ok .reset) := by decide

theorem witness_UninitializedUseChangesNothing :
    (fresh.st = .uninit ∧ fresh.fault = none) ∧ (∃ t, exec (.init 8 9 10) fresh = .next t) ∧
      ∃ t, exec (.calib 0) fresh = .next t := ⟨by decide, ⟨_, rfl⟩, ⟨_, rfl⟩⟩

theorem witness_ForbiddenPinChangesNothing :
    fresh.fault = none ∧
    (let bad := fun p => p = fresh.cfg.forbiddenA ∨ p = fresh.cfg.forbiddenB
     bad 11 ∧ (¬bad 10 ∧ bad 12) ∧ (¬bad 10 ∧ ¬bad 13 ∧ bad 11)) := by decide

theorem witness_FirstFaultIsKept :
    (∃ t, exec .reset { fresh with fault := some (.forbiddenPin 11) } = .next t) ∧ ∃ t, step fresh = .next t :=
  ⟨⟨_, rfl⟩, ⟨_, rfl⟩⟩

theorem witness_UndefMarksCalibrationZero :
    (∃ t, exec (.setfreq 5) { readyA with calib := 0 } = .next t ∧ t.undef = true) ∧
      ∃ t, exec (.setfreq 5) { readyA with calib := 1 } = .next t ∧ t.undef = false :=
  ⟨⟨_, rfl, rfl⟩, ⟨_, rfl, rfl⟩⟩

theorem witness_InitMeaning :
    fresh.cfg.valid = true ∧ fresh.variant = .typeA ∧ readyB.variant = .typeB ∧
    firstForbidden fresh.cfg 8 12 11 = some 12 ∧
    (isForbidden fresh.cfg 0 = false ∧ isForbidden fresh.cfg 255 = false ∧ isForbidden fresh.cfg 10 = false) := by
  decide

theorem witness_ResetMeaning :
    fresh.st = .uninit ∧ (readyA.st ≠ .uninit ∧ readyA.calib ≠ 0) ∧
    (let s := { readyA with calib := 0 }; s.st ≠ .uninit ∧ s.calib = 0) := by decide

theorem witness_SetfreqMeaning :
    fresh.st = .uninit ∧ (let s := { readyA with calib := 1 }; s.st ≠ .uninit ∧ s.calib ≠ 0) ∧
    (let s := { readyA with calib := 0 }; s.st ≠ .uninit ∧ s.calib = 0) := by decide

theorem witness_UpdateMeaning : fresh.st = .uninit ∧ readyA.st ≠ .uninit := by decide

theorem witness_CalibMeaning :
    ∃ t u, exec (.calib 1) readyA = .next t ∧ readyA.st ≠ .uninit ∧ (1 : Operand) ≠ 0 ∧
      exec (.setfreq 0xFFFFFFFF) t = .next u := ⟨_, _, rfl, by decide, by decide, rfl⟩

theorem witness_PwrdnMeaning :
    fresh.st = .uninit ∧ readyB.st ≠ .uninit ∧ { readyB with st := .poweredDown }.st ≠ .uninit := by decide

theorem witness_PwrupMeaning : fresh.st = .uninit ∧ { readyA with st := .poweredDown }.st ≠ .uninit := by decide

theorem witness_InitWorkedExample :
    (fresh.cfg.opW = 32 ∧ fresh.cfg.pinW = 8 ∧ fresh.cfg.opFrac = 0 ∧ firstForbidden fresh.cfg 8 9 10 = none ∧
      fresh.variant = .typeA) ∧
    (readyB.cfg.opW = 32 ∧ readyB.cfg.pinW = 8 ∧ readyB.cfg.opFrac = 0 ∧ firstForbidden readyB.cfg 8 9 10 = none ∧
      readyB.variant = .typeB) := by decide

theorem witness_SetfreqWorkedExample :
    readyA.cfg.opW = 32 ∧ readyA.st ≠ .uninit ∧ readyA.calib = 125000000 ∧ readyA.ctrl = 0x00 := by decide

theorem witness_SetfreqCornerCases :
    readyA.st ≠ .uninit ∧ (readyA.calib ≠ 0 ∧ readyA.calib < 130000000) ∧
    ({ readyA with calib := 0 }.calib = 0) ∧
    (let s := { readyA with calib := 1 }; s.calib ≠ 0 ∧ (0 : Operand) = s.calib - 1 ∧ (1 : Operand) = s.calib ∧
      s.calib < 2 ∧ 0 < s.calib) := by decide

theorem witness_CalibCornerCases : readyB.cfg.opW = 32 ∧ readyB.st ≠ .uninit ∧ readyB.ctrl = 0x01 := by decide

theorem witness_FrameOfUpdatePwrupPwrdn :
    (∃ t, exec .update readyA = .next t) ∧ (∃ t, exec .pwrup readyA = .next t) ∧ (∃ t, exec .pwrdn readyA = .next t) ∧
      ((10 : Pin) ≠ readyA.pinLatch ∧ readyA.st ≠ .uninit) ∧ ∃ t, exec .pwrdn fresh = .next t ∧ fresh.st = .uninit :=
  ⟨⟨_, rfl⟩, ⟨_, rfl⟩, ⟨_, rfl⟩, by decide, ⟨_, rfl, rfl⟩⟩

theorem witness_FrameOfSetfreq :
    (∃ t, exec (.setfreq 1) readyA = .next t) ∧ (readyA.calib ≠ 0 ∧ readyA.st ≠ .uninit ∧ (8 : Pin) ≠ readyA.pinLatch) ∧
      ∃ t, exec (.setfreq 1) fresh = .next t ∧ fresh.st = .uninit := ⟨⟨_, rfl⟩, by decide, ⟨_, rfl, rfl⟩⟩

theorem witness_FrameOfReset :
    (∃ t, exec .reset readyA = .next t) ∧
      (readyA.calib ≠ 0 ∧ readyA.st ≠ .uninit ∧ (11 : Pin) ≠ readyA.pinClk ∧ (11 : Pin) ≠ readyA.pinLatch ∧
        (11 : Pin) ≠ readyA.pinRst) ∧
      ∃ t, exec .reset fresh = .next t ∧ fresh.st = .uninit := ⟨⟨_, rfl⟩, by decide, ⟨_, rfl, rfl⟩⟩

theorem witness_FrameOfInit :
    (∃ t, exec (.init 20 21 22) readyA = .next t) ∧
      (firstForbidden readyA.cfg 20 21 22 = none ∧ (8 : Pin) ≠ 20 ∧ (8 : Pin) ≠ 21 ∧ (8 : Pin) ≠ 22) ∧
      ∃ t, exec (.init 20 11 22) readyA = .next t ∧ firstForbidden readyA.cfg 20 11 22 ≠ none :=
  ⟨⟨_, rfl⟩, by decide, ⟨_, rfl, by decide⟩⟩

theorem witness_RegistersHaveOnlyTheirWriters :
    (∃ t, exec (.calib 1) readyA = .next t ∧ t.calib ≠ readyA.calib) ∧
    (∃ t, exec (.init 8 9 10) { readyA with ctrl := 0x02 } = .next t ∧ t.ctrl ≠ 0x02) ∧
    (∃ t, exec (.init 20 21 22) readyA = .next t ∧ t.pinClk ≠ readyA.pinClk) ∧
    (∃ t, exec (.setfreq 0) readyA = .next t ∧ t.dph ≠ readyA.dph) ∧
    ∃ t, exec .pwrdn readyA = .next t ∧ t.st ≠ readyA.st :=
  ⟨⟨_, rfl, by decide⟩, ⟨_, rfl, by decide⟩, ⟨_, rfl, by decide⟩, ⟨_, rfl, by decide⟩, ⟨_, rfl, by decide⟩⟩

theorem witness_SequencerStateTransitions :
    (∃ t, exec (.init 8 9 10) fresh = .next t ∧ firstForbidden fresh.cfg 8 9 10 = none) ∧
    (∃ t, exec (.init 8 9 11) fresh = .next t ∧ firstForbidden fresh.cfg 8 9 11 ≠ none) ∧
    (∃ t, exec .reset fresh = .next t) ∧ (∃ t, exec (.setfreq 0) readyA = .next t) ∧
    (∃ t, exec .update readyA = .next t) ∧ (∃ t, exec (.calib 0) fresh = .next t) ∧
    (∃ t, exec .pwrdn fresh = .next t) ∧ ∃ t, exec .pwrup readyA = .next t :=
  ⟨⟨_, rfl, by decide⟩, ⟨_, rfl, by decide⟩, ⟨_, rfl⟩, ⟨_, rfl⟩, ⟨_, rfl⟩, ⟨_, rfl⟩, ⟨_, rfl⟩, ⟨_, rfl⟩⟩

/-- One witness for each command. -/
theorem witness_EventCounts :
    (∃ t, exec (.init 8 9 10) readyA = .next t ∧ t.fault = none) ∧ (∃ t, exec .reset readyA = .next t ∧ t.fault = none) ∧
    (∃ t, exec (.setfreq 0) readyA = .next t ∧ t.fault = none) ∧ (∃ t, exec .update readyA = .next t ∧ t.fault = none) ∧
    (∃ t, exec (.calib 0) readyA = .next t ∧ t.fault = none) ∧ (∃ t, exec .pwrdn readyA = .next t ∧ t.fault = none) ∧
    ∃ t, exec .pwrup readyA = .next t ∧ t.fault = none :=
  ⟨⟨_, rfl, rfl⟩, ⟨_, rfl, rfl⟩, ⟨_, rfl, rfl⟩, ⟨_, rfl, rfl⟩, ⟨_, rfl, rfl⟩, ⟨_, rfl, rfl⟩, ⟨_, rfl, rfl⟩⟩

theorem witness_TraceOnlyGrows : ∃ t, step { readyA with host := [0x0600000000] } = .next t := ⟨_, rfl⟩

/-- The invariant holds of a block in use, not only after power-on. -/
theorem witness_StepKeepsInvariant :
    { readyA with host := [0x0600000000] }.Inv ∧ ∃ t, step { readyA with host := [0x0600000000] } = .next t := by
  refine ⟨?_, ⟨_, rfl⟩⟩
  constructor
  case fits => constructor <;> decide
  case pinsFollowTrace =>
    intro p
    by_cases h8 : p = 8
    · subst h8; decide
    by_cases h9 : p = 9
    · subst h9; decide
    by_cases h10 : p = 10
    · subst h10; decide
    simp [State.drive, readyA, lookupPin, resetEvents, frame5, frameBytes, pulseEvents, traceDrive, h8, h9, h10]
  case shapes =>
    intro f hf
    have h : frames ({ readyA with host := [0x0600000000] } : State).trace = [frameBytes 0x22 0x00] := by decide
    rw [h, List.mem_singleton] at hf
    exact .inr ⟨0x22, hf⟩
  case last => show _ = _; decide
  all_goals decide

theorem witness_StepKeepsReceiverInStep :
    let s := { readyA with host := [0x0600000000] }
    s.Inv ∧ s.ReceiverInStep ∧ ∃ t, step s = .next t :=
  ⟨witness_StepKeepsInvariant.1, fun _ _ => by decide, ⟨_, rfl⟩⟩

theorem witness_BlockNeverReadsTheReceiver : ∃ t, exec .reset readyB = .next t := ⟨_, rfl⟩

theorem witness_CommandsIgnorePastOutput : ∃ t, exec (.init 9 9 9) readyB = .next t := ⟨_, rfl⟩

theorem witness_BusyAndSeqWithinACommand : ∃ t, exec .reset readyA = .next t ∧ t.fault = none := ⟨_, rfl, rfl⟩

theorem witness_ResettingOnlyWithinInitAndReset :
    readyA.st ≠ .resetting ∧ (midCommand (commandScript .reset) 1 readyA).st = .resetting ∧
    fresh.st ≠ .resetting ∧ (midCommand (commandScript (.init 8 9 10)) 5 fresh).st = .resetting := by decide

theorem witness_BusBracketHoldsWithinACommand :
    busScan (some false) readyA.trace = some false ∧ readyA.held = false ∧ readyA.sclk = false ∧
      readyA.mosi = .unspecified ∧ (midCommand (commandScript .update) 4 readyA).sclk = true ∧
      (midCommand (commandScript .update) 1 readyA).mosi = .unspecified ∧
      (midCommand (commandScript .update) 1 readyA).held = true := by decide

theorem witness_ByteIsShiftedLsbFirstInModeZero : 0 < 8 ∧ 7 < 8 ∧ readyA.sclk = false := by decide

/-- After 133 actions of UpdateSeq the latch pin is about to fall, after 134 it has fallen. -/
theorem witness_ActiveRegistersWaitForTheLatch :
    (readyA.pinLatch ≠ readyA.pinRst ∧ readyA.dev.n = 0 ∧ readyA.dev.stage = .idle) ∧
    (∃ es, (midCommand updateSeq 133 readyA).trace = readyA.trace ++ es ∧ Event.pin readyA.pinLatch false ∉ es) ∧
    (∃ es, (midCommand updateSeq 134 readyA).trace = readyA.trace ++ es ∧ Event.pin readyA.pinLatch false ∈ es) ∧
    (∃ es, (midCommand pwrdnScript 34 readyA).trace = readyA.trace ++ es ∧
      es.count (.pin readyA.pinLatch false) = 1) ∧
    ∃ es, (midCommand pwrdnScript 37 readyA).trace = readyA.trace ++ es ∧
      es.count (.pin readyA.pinLatch false) = 2 :=
  ⟨by decide,
    ⟨[.beginBus 8000000, .byte 0x22, .byte 0, .byte 0, .byte 0, .byte 0, .pin 9 true, .hold 1000000], rfl, by decide⟩,
    ⟨[.beginBus 8000000, .byte 0x22, .byte 0, .byte 0, .byte 0, .byte 0, .pin 9 true, .hold 1000000, .pin 9 false], rfl,
      by decide⟩,
    ⟨pulseEvents (build .typeA) 9 1000000 ++ [.beginBus 8000000, .byte 0x04, .endBus, .pin 9 true, .hold 1000000], rfl,
      by decide⟩,
    ⟨framePd (build .typeA) 9, rfl, by decide⟩⟩

theorem witness_WireBitOrder : 31 < 32 ∧ (32 ≤ 32 ∧ 32 < 40) ∧ (32 ≤ 39 ∧ 39 < 40) := by decide

theorem witness_FrameBytesReassembleToDph : frameBytes 0xFFFFFF01 0x00 = [0x01, 0xFF, 0xFF, 0xFF, 0x00] := by decide

theorem witness_DeltaPhaseLaws :
    (125000000 : Operand) ≠ 0 ∧ (124999999 : Operand) < 125000000 ∧ ((1 : Operand) ≠ 0 ∧ (0 : Operand) < 1) ∧
    ({ readyA with st := .poweredDown }.calib = 125000000 ∧ readyA.calib = 125000000) := by decide

theorem witness_RestoringDividerComputesDeltaPhase :
    (2 ^ 36 - 1 < 2 ^ 36 ∧ (1 : Operand) ≠ 0) ∧ (0 < 2 ^ 0 ∧ (0xFFFFFFFF : Operand) ≠ 0) := by decide

set_option maxRecDepth 100000 in
theorem witness_OutputFrequencyAccuracy :
    1 < 125000000 ∧ readyA.dev.dphAct = deltaPhase 1 125000000 := by decide

theorem witness_ResetEndsLikeSetfreqOneHz : readyA.st ≠ .uninit ∧ { readyA with calib := 1 }.calib ≠ 0 := by decide

theorem witness_PowerCycleRestoresTheFrame : readyA.Inv ∧ readyA.st = .active ∧ readyA.st ≠ .uninit := by
  refine ⟨?_, by decide, by decide⟩
  have h := witness_StepKeepsInvariant.1
  exact ⟨⟨h.fits.calib, h.fits.pinClk, h.fits.pinLatch, h.fits.pinRst, h.fits.driven, by decide⟩, h.idle, h.released, h.clockLow, h.dataOpen, h.strap, h.pinsCanonical, h.pinsFollowTrace, h.bracket, h.control,
    h.shapes, h.last, h.wholeFrames⟩

theorem witness_CalibrationWaitsForTheNextComputation : readyB.st ≠ .uninit := by decide

theorem witness_InitDiscardsCalibration :
    ∃ t u, firstForbidden fresh.cfg 8 9 10 = none ∧ exec (.calib 1) fresh = .next t ∧
      exec (.init 8 9 10) t = .next u := ⟨_, _, by decide, rfl, rfl⟩

theorem witness_LeastCommandTimes :
    ({ Config.default with sclkHz := 2000000 } : Config).valid = true ∧ Config.default.valid = true ∧
    ∃ t es, exec .pwrdn readyA = .next t ∧ t.fault = none ∧ t.trace = readyA.trace ++ es :=
  ⟨by decide, by decide, _, framePd (build .typeA) 9, rfl, rfl, rfl⟩

theorem witness_EveryHoldIsPositive :
    ∃ t es, readyA.cfg.valid = true ∧ exec .pwrdn readyA = .next t ∧ t.trace = readyA.trace ++ es ∧
      Event.hold 1000000 ∈ es := ⟨_, framePd (build .typeA) 9, by decide, rfl, rfl, by decide⟩

end Sys2Proof.Tests
end

/-! ## The scope (spec/00_scope.md): the encoding round trip and the configurations the model takes -/

section
namespace Sys2Proof

/-- R9 as inequalities. -/
theorem Config.widthsOk_iff (c : Config) :
    c.widthsOk = true ↔ 28 + c.opFrac ≤ c.opW ∧ 3 * c.pinW ≤ c.opW := by
  simp [Config.widthsOk]

/-- R121 as inequalities. -/
theorem Config.pulsesOk_iff (c : Config) : c.pulsesOk = true ↔ 0 < c.tRstPw ∧ 0 < c.tPw := by
  simp [Config.pulsesOk]

/-- The four checks of a configuration the model takes. -/
theorem Config.valid_iff (c : Config) :
    c.valid = true ↔ c.widthsOk = true ∧ c.rateOk = true ∧ c.pulsesOk = true ∧ c.pinsOk = true := by
  simp [Config.valid, and_assoc]

theorem Instr.wf_init_iff (c : Config) (clk latch rst : Pin) :
    Instr.wf c (.init clk latch rst) = true ↔ clk < 2 ^ c.pinW ∧ latch < 2 ^ c.pinW ∧ rst < 2 ^ c.pinW := by
  simp [Instr.wf, Config.pinFits, and_assoc]

/-- The fields of the operand the encoder writes for INIT (R94): the reserved bits are the part `z = 0` of
`initOperand_fields`. -/
theorem operandOf_init_fields {c : Config} {clk latch rst : Pin} (h : Instr.wf c (.init clk latch rst) = true) :
    let o := operandOf c (.init clk latch rst)
    clkField c o = clk ∧ latchField c o = latch ∧ rstField c o = rst ∧ initReserved c o = 0 := by
  obtain ⟨hclk, hlatch, hrst⟩ := (Instr.wf_init_iff c clk latch rst).1 h
  have hfields := initOperand_fields c (Nat.two_pow_pos _) hrst hlatch hclk
  rwa [Nat.zero_mul, Nat.zero_add, ← Nat.add_assoc] at hfields

/-- The case split of R98 reads a command back from its opcode and operand. -/
theorem decodeFields_opcodeOf_operandOf {c : Config} {i : Instr} (h : i.wf c = true) :
    decodeFields c (opcodeOf i) (operandOf c i) = .ok i := by
  cases i with
  | init clk latch rst =>
    obtain ⟨hclk, hlatch, hrst, hreserved⟩ := operandOf_init_fields h
    rw [decodeFields, opcodeOf, if_pos rfl, if_pos hreserved, hclk, hlatch, hrst]
  | reset => rfl
  | setfreq f => rfl
  | update => rfl
  | calib x => rfl
  | pwrdn => rfl
  | pwrup => rfl

/-- Decoding inverts encoding as soon as INIT's three pins fit in the operand; the other half of R9 is not needed. -/
theorem decode_encode {c : Config} {i : Instr} (hw : 3 * c.pinW ≤ c.opW) (h : i.wf c = true) :
    decode c (encode c i) = .ok i := by
  rw [encode, decode_append c _ (operandOf_lt hw h)]
  exact decodeFields_opcodeOf_operandOf h

/-- Settles O1: the word's two fields are the command's opcode and operand, from which R98 reads the command back. -/
theorem decodeEncodeRoundTrip : Obligations.DecodeEncodeRoundTrip := by
  intro c i hc hi
  obtain ⟨-, hpins⟩ := c.widthsOk_iff.1 hc
  exact decode_encode hpins hi

end Sys2Proof

namespace Sys2Proof.Machine

/-- The check of the configuration comes before every other one. -/
theorem step_of_invalid {s : State} (h : s.cfg.valid = false) : step s = .refused .invalidConfig := if_pos h

/-- Settles O12: each of the four conditions contradicts a bound that a valid configuration meets. -/
theorem badConfigurationIsRefused : Obligations.BadConfigurationIsRefused := by
  intro s hbad
  refine step_of_invalid (Bool.eq_false_iff.2 fun hvalid => ?_)
  obtain ⟨hwidths, -, hpulses, -⟩ := s.cfg.valid_iff.1 hvalid
  obtain ⟨hfrac, hpins⟩ := s.cfg.widthsOk_iff.1 hwidths
  obtain ⟨hrst, hpw⟩ := s.cfg.pulsesOk_iff.1 hpulses
  rcases hbad with h | h | h | h
  · exact Nat.not_lt.2 hfrac h
  · exact Nat.not_lt.2 hpins h
  · exact hrst.ne' h
  · exact hpw.ne' h

end Sys2Proof.Machine
end

/-! ## The architectural state (spec/10_state.md): the invariant, the writers of the registers, ST, BUSY and SEQ -/

section
namespace Sys2Proof

theorem eq_of_noOperand_eq_ok {i j : Instr} {opc : Opcode} {opnd : Operand} (h : noOperand i opc opnd = .ok j) :
    j = i := by
  unfold noOperand at h
  split at h
  · exact (Except.ok.inj h).symm
  · cases h

/-- The case split of R98 gives no command whose operands do not fit: each operand is read from its field (R94, R95). -/
theorem wf_of_decodeFields {c : Config} {opc : Opcode} {o : Operand} {i : Instr} (ho : o < 2 ^ c.opW)
    (h : decodeFields c opc o = .ok i) : i.wf c = true := by
  unfold decodeFields at h
  split_ifs at h with hinit hbits hreset hsetfreq hupdate hcalib hpwrdn hpwrup
  · cases h
    exact (Instr.wf_init_iff ..).2 ⟨bitField_lt _ _ _, bitField_lt _ _ _, bitField_lt _ _ _⟩
  · cases eq_of_noOperand_eq_ok h
    rfl
  · cases h
    exact decide_eq_true ho
  · cases eq_of_noOperand_eq_ok h
    rfl
  · cases h
    exact decide_eq_true ho
  · cases eq_of_noOperand_eq_ok h
    rfl
  · cases eq_of_noOperand_eq_ok h
    rfl

theorem wf_of_decode {c : Config} {w : CmdWord} {i : Instr} (h : decode c w = .ok i) : i.wf c = true := by
  unfold decode at h
  split at h
  · cases h
  · exact wf_of_decodeFields (bitField_lt _ _ _) h

end Sys2Proof

namespace Sys2Proof.Machine

/-! ### The invariant -/

/-- NOMINAL fits in OPW bits where R9 holds (R114): both frequencies lie below 2^28. -/
theorem nominal_lt {c : Config} (h : 28 + c.opFrac ≤ c.opW) (v : Variant) : nominal c v < 2 ^ c.opW := by
  have hz : nominalHz v < 2 ^ 28 := by cases v <;> decide
  calc nominal c v = nominalHz v * 2 ^ c.opFrac := nominal_eq c v
    _ < 2 ^ 28 * 2 ^ c.opFrac := Nat.mul_lt_mul_of_pos_right hz (Nat.two_pow_pos _)
    _ = 2 ^ (28 + c.opFrac) := (Nat.pow_add ..).symm
    _ ≤ 2 ^ c.opW := Nat.pow_le_pow_right (by decide) h

theorem drive_setPin (s : State) (p : Pin) (v : Bool) (q : Pin) :
    (s.setPin p v).drive q = if q = p then .level v else s.drive q := by
  split
  · rename_i h
    rw [h, drive_setPin_same]
  · rename_i h
    exact drive_setPin_other s h v

/-- The driven pins keep their width when a pin that has it is written. -/
theorem insertPin_fits {n p : Nat} {v : Bool} {l : List (Pin × Bool)} (hp : p < n) (h : ∀ e ∈ l, e.1 < n) :
    ∀ e ∈ insertPin p v l, e.1 < n := by
  intro e he
  rcases mem_insertPin he with rfl | he
  · exact hp
  · exact h e he

theorem traceDrive_pulseEvents (q : Pin) (d : Drive) (c : Config) (p : Pin) (w : Duration) :
    traceDrive q d (pulseEvents c p w) = if q = p then .level false else d := by
  by_cases h : q = p <;> simp [pulseEvents, traceDrive, h]

theorem traceDrive_frame5 (q : Pin) (d : Drive) (c : Config) (p : Pin) (w : Phase) (b : Byte) :
    traceDrive q d (frame5 c p w b) = if q = p then .level false else d := by
  simp [frame5, frameBytes, traceDrive_append, traceDrive, traceDrive_pulseEvents]

theorem traceDrive_framePd (q : Pin) (d : Drive) (c : Config) (p : Pin) :
    traceDrive q d (framePd c p) = if q = p then .level false else d := by
  by_cases h : q = p <;> simp [framePd, traceDrive_append, traceDrive, traceDrive_pulseEvents, h]

theorem busScan_pulseEvents (c : Config) (p : Pin) (w : Duration) :
    busScan (some false) (pulseEvents c p w) = some false := rfl

theorem busScan_frame5 (c : Config) (p : Pin) (d : Phase) (b : Byte) :
    busScan (some false) (frame5 c p d b) = some false := rfl

theorem busScan_framePd (c : Config) (p : Pin) : busScan (some false) (framePd c p) = some false := rfl

/-- What a command brings about before it sends its frame, and what the frame leaves: the invariant without the lines
at rest, the clause on the last frame and the receiver, and with CTRL written. BUSY is of no account. -/
structure State.Prepared (s : State) : Prop where
  fits : s.Fits
  strap : s.variant = s.cfg.variantSel
  pinsCanonical : drvCanonical s.drv = true
  pinsFollowTrace : ∀ p, s.drive p = traceDrive p .z s.trace
  bracket : busScan (some false) s.trace = some false
  control : s.ctrl = controlByte s.variant
  shapes : ∀ f ∈ frames s.trace, frameShape s.variant f

/-- After INIT the invariant prepares a frame. -/
theorem State.Inv.prepared {s : State} (h : s.Inv) (hst : s.st ≠ .uninit) : s.Prepared :=
  ⟨h.fits, h.strap, h.pinsCanonical, h.pinsFollowTrace, h.bracket, h.control hst, h.shapes⟩

namespace State.Prepared

variable {s : State}

/-- `Prepared` says nothing of the fields that `accept`, `loadDph` and `finish` write. -/
theorem of_unmentioned (h : s.Prepared) (busy : Bool) (seq : Nat) (dph : Phase) (undef : Bool) (draws : Nat) :
    ({ s with busy := busy, seq := seq, dph := dph, undef := undef, draws := draws } : State).Prepared where
  fits := ⟨h.fits.calib, h.fits.pinClk, h.fits.pinLatch, h.fits.pinRst, h.fits.driven, h.fits.host⟩
  strap := h.strap
  pinsCanonical := h.pinsCanonical
  pinsFollowTrace := h.pinsFollowTrace
  bracket := h.bracket
  control := h.control
  shapes := h.shapes

theorem accept (h : s.Prepared) : s.accept.Prepared := h.of_unmentioned _ _ _ _ _

theorem loadDph (h : s.Prepared) (f : Operand) : (s.loadDph f).Prepared := h.of_unmentioned _ _ _ _ _

theorem finish (h : s.Prepared) : s.finish.Prepared := h.of_unmentioned _ _ _ _ _

/-- A frequency frame has the shape R68 gives it, since CTRL is the variant's control byte. -/
theorem frameShape_frameBytes (h : s.Prepared) (d : Phase) : frameShape s.variant (frameBytes d s.ctrl) :=
  .inr ⟨d, by rw [h.control]⟩

theorem frames_afterUpdate (h : s.Prepared) :
    frames (afterUpdate s).trace = frames s.trace ++ [frameBytes s.dph s.ctrl] := by
  rw [afterUpdate_trace, frames_append _ h.bracket, frames_frame5]

theorem frames_afterPwrdn (h : s.Prepared) :
    frames (afterPwrdn s).trace = frames s.trace ++ [[powerDownByte]] := by
  rw [afterPwrdn_trace, frames_append _ h.bracket, frames_framePd]

/-- A frame keeps a state prepared: its events close the bus bracket, hold one frame of a shape of R68 and leave the latch
pin low, as DRV then says. -/
theorem sendFrame (h : s.Prepared) {es : List Event} {f : List Byte} {seq rate draws : Nat} {held sclk : Bool}
    {mosi : DataLine} {st : SeqState} {dev : Receiver}
    (hdrive : ∀ q d, traceDrive q d es = if q = s.pinLatch then .level false else d)
    (hbus : busScan (some false) es = some false) (hframes : frames es = [f]) (hf : frameShape s.variant f) :
    ({ s with
      trace := s.trace ++ es, drv := insertPin s.pinLatch false s.drv, seq := seq, held := held, rate := rate,
      sclk := sclk, mosi := mosi, st := st, dev := dev, draws := draws } : State).Prepared where
  fits := ⟨h.fits.calib, h.fits.pinClk, h.fits.pinLatch, h.fits.pinRst,
    insertPin_fits h.fits.pinLatch h.fits.driven, h.fits.host⟩
  strap := h.strap
  pinsCanonical := insertPin_canonical _ _ _ h.pinsCanonical
  pinsFollowTrace q := by
    rw [traceDrive_append, hdrive, ← h.pinsFollowTrace]
    exact drive_setPin s s.pinLatch false q
  bracket := by rw [busScan_append, h.bracket, hbus]
  control := h.control
  shapes g hg := by
    rw [frames_append _ h.bracket, hframes, List.mem_append, List.mem_singleton] at hg
    rcases hg with hg | rfl
    · exact h.shapes g hg
    · exact hf

theorem afterUpdate (h : s.Prepared) : (afterUpdate s).Prepared :=
  h.sendFrame (fun q d => traceDrive_frame5 q d _ _ _ _) (busScan_frame5 ..) (frames_frame5 ..)
    (h.frameShape_frameBytes _)

theorem afterPwrdn (h : s.Prepared) : (afterPwrdn s).Prepared :=
  h.sendFrame (fun q d => traceDrive_framePd q d _ _) (busScan_framePd ..) (frames_framePd ..) (.inl rfl)

theorem afterResetPulses (h : s.Prepared) : (afterResetPulses s).Prepared where
  fits := ⟨h.fits.calib, h.fits.pinClk, h.fits.pinLatch, h.fits.pinRst,
    insertPin_fits h.fits.pinLatch (insertPin_fits h.fits.pinClk (insertPin_fits h.fits.pinRst h.fits.driven)),
    h.fits.host⟩
  strap := h.strap
  pinsCanonical := insertPin_canonical _ _ _ (insertPin_canonical _ _ _ (insertPin_canonical _ _ _ h.pinsCanonical))
  pinsFollowTrace q := by
    simp only [afterResetPulses_trace, traceDrive_append, traceDrive_pulseEvents, ← h.pinsFollowTrace, ← drive_setPin]
    rfl
  bracket := by simp only [afterResetPulses_trace, busScan_append, h.bracket, busScan_pulseEvents]
  control := h.control
  shapes := by
    have hno : frames (Machine.afterResetPulses s).trace = frames s.trace := by
      rw [afterResetPulses_trace, frames_append _ h.bracket]
      exact List.append_nil _
    rw [hno]
    exact h.shapes

end State.Prepared

/-- INIT's register writes and OE events prepare a frame in every ST: they write CTRL, and CALIB and the pin registers
with values that fit. -/
theorem State.Inv.prepared_afterInitPins {s : State} (h : s.Inv) (hcfg : 28 + s.cfg.opFrac ≤ s.cfg.opW) {clk latch rst : Pin}
    (hclk : clk < 2 ^ s.cfg.pinW) (hlatch : latch < 2 ^ s.cfg.pinW) (hrst : rst < 2 ^ s.cfg.pinW) :
    (afterInitPins clk latch rst s.accept).Prepared where
  fits := ⟨nominal_lt hcfg _, hclk, hlatch, hrst,
    insertPin_fits hrst (insertPin_fits hlatch (insertPin_fits hclk h.fits.driven)), h.fits.host⟩
  strap := h.strap
  pinsCanonical := insertPin_canonical _ _ _ (insertPin_canonical _ _ _ (insertPin_canonical _ _ _ h.pinsCanonical))
  pinsFollowTrace q := by
    simp only [afterInitPins_trace, accept_trace, traceDrive_append, traceDrive, ← h.pinsFollowTrace, ← drive_setPin]
    rfl
  bracket := by simp only [afterInitPins_trace, accept_trace, busScan_append, h.bracket, busScan]
  control := rfl
  shapes := by
    have hno : frames (afterInitPins clk latch rst s.accept).trace = frames s.trace := by
      rw [afterInitPins_trace, accept_trace, frames_append _ h.bracket]
      exact List.append_nil _
    rw [hno]
    exact h.shapes

/-- Once a frame has been sent and latched, the invariant holds again. -/
theorem State.Prepared.inv_finish {t : State} (h : t.Prepared) (hheld : t.held = false) (hsclk : t.sclk = false)
    (hmosi : t.mosi = .unspecified) (hlast : lastFrameFits t) (hdev : t.dev.n = 0 ∧ t.dev.stage = .idle) :
    t.finish.Inv where
  fits := h.finish.fits
  idle := rfl
  released := hheld
  clockLow := hsclk
  dataOpen := hmosi
  strap := h.strap
  pinsCanonical := h.pinsCanonical
  pinsFollowTrace := h.pinsFollowTrace
  bracket := h.bracket
  control _ := h.control
  shapes := h.shapes
  last := hlast
  wholeFrames := hdev

/-- UpdateSeq brings the invariant about from any prepared state (R117). -/
theorem State.Prepared.inv_afterUpdate {s : State} (h : s.Prepared) : (Machine.afterUpdate s).finish.Inv := by
  have hlast : (frames (Machine.afterUpdate s).trace).getLast? = some (frameBytes s.dph s.ctrl) := by
    rw [h.frames_afterUpdate, List.getLast?_concat]
  exact h.afterUpdate.inv_finish rfl rfl rfl hlast (pulsedOn_latch_rest ..)

/-- PWRDN's script brings it about likewise (R170). -/
theorem State.Prepared.inv_afterPwrdn {s : State} (h : s.Prepared) : (Machine.afterPwrdn s).finish.Inv := by
  have hlast : (frames (Machine.afterPwrdn s).trace).getLast? = some [powerDownByte] := by
    rw [h.frames_afterPwrdn, List.getLast?_concat]
  exact h.afterPwrdn.inv_finish rfl rfl rfl hlast (pulsedOn_latch_rest ..)

/-- The port, CALIB, SEQ and FAULT may take any value of their width. -/
theorem State.Inv.rewrite {s : State} (h : s.Inv) {words : List CmdWord} {x : Operand} (seq : Nat)
    (fault : Option FaultReason) (hwords : ∀ w ∈ words, w < 2 ^ s.cfg.cmdW) (hx : x < 2 ^ s.cfg.opW) :
    ({ s with host := words, calib := x, seq := seq, fault := fault } : State).Inv where
  fits := ⟨hx, h.fits.pinClk, h.fits.pinLatch, h.fits.pinRst, h.fits.driven, hwords⟩
  idle := h.idle
  released := h.released
  clockLow := h.clockLow
  dataOpen := h.dataOpen
  strap := h.strap
  pinsCanonical := h.pinsCanonical
  pinsFollowTrace := h.pinsFollowTrace
  bracket := h.bracket
  control := h.control
  shapes := h.shapes
  last := h.last
  wholeFrames := h.wholeFrames

theorem State.Inv.raise {s : State} (h : s.Inv) (r : FaultReason) : (s.raise r).Inv := by
  rw [raise_eq_with_fault]
  exact h.rewrite s.seq _ h.fits.host h.fits.calib

/-- CALIB's whole command: CALIB takes the operand, SEQ starts anew (R155). -/
theorem State.Inv.calib {s : State} (h : s.Inv) {x : Operand} (hx : x < 2 ^ s.cfg.opW) :
    (afterScript (.calib x) s.accept).finish.Inv := by
  have hs : (afterScript (.calib x) s.accept).finish = { s with calib := x, seq := 0 } := by
    simp [afterScript, State.accept, State.finish, h.idle]
  rw [hs]
  exact h.rewrite 0 s.fault h.fits.host hx

theorem State.Inv.takeCommand {s u : State} {w : CmdWord} (h : s.Inv)
    (hu : Machine.takeCommand s = some (w, u)) : u.Inv := by
  obtain ⟨-, rest, hhost, rfl⟩ := takeCommand_eq_some.1 hu
  refine h.rewrite s.seq s.fault (fun v hv => h.fits.host v ?_) h.fits.calib
  rw [hhost]
  exact List.mem_cons_of_mem _ hv

/-- A command other than INIT and CALIB runs exactly after INIT (R203). -/
theorem faultOf_eq_none_iff {i : Instr} (s : State) (hi : ∀ clk latch rst, i ≠ .init clk latch rst)
    (hc : ∀ x, i ≠ .calib x) : faultOf i s = none ↔ s.st ≠ .uninit := by
  cases i with
  | init clk latch rst => exact absurd rfl (hi _ _ _)
  | calib x => exact absurd rfl (hc _)
  | reset => simp [faultOf]
  | setfreq f => simp [faultOf]
  | update => simp [faultOf]
  | pwrdn => simp [faultOf]
  | pwrup => simp [faultOf]

/-- A command with fitting operands keeps the invariant in a build that meets R9. -/
theorem exec_keeps_inv {i : Instr} {s t : State} (h : s.Inv) (hcfg : 28 + s.cfg.opFrac ≤ s.cfg.opW)
    (hwf : i.wf s.cfg = true) (hexec : exec i s = .next t) : t.Inv := by
  rcases exec_cases hexec with ⟨r, -, rfl⟩ | ⟨hok, rfl⟩
  · exact h.raise r
  have hready := fun hi hc => (h.prepared ((faultOf_eq_none_iff s hi hc).1 hok)).accept
  cases i with
  | init clk latch rst =>
    obtain ⟨hclk, hlatch, hrst⟩ := (Instr.wf_init_iff _ _ _ _).1 hwf
    exact ((h.prepared_afterInitPins hcfg hclk hlatch hrst).afterResetPulses.loadDph _).inv_afterUpdate
  | reset => exact ((hready (by simp) (by simp)).afterResetPulses.loadDph _).inv_afterUpdate
  | setfreq f => exact ((hready (by simp) (by simp)).loadDph _).inv_afterUpdate
  | update => exact (hready (by simp) (by simp)).inv_afterUpdate
  | calib x => exact h.calib (of_decide_eq_true hwf)
  | pwrdn => exact (hready (by simp) (by simp)).inv_afterPwrdn
  | pwrup => exact (hready (by simp) (by simp)).inv_afterUpdate

/-- Settles O38: a step waits, records an illegal word or runs a command, which ends in a latched frame, in a write of
CALIB or in a recorded fault. -/
theorem stepKeepsInvariant : Obligations.StepKeepsInvariant := by
  intro s t h hstep
  obtain ⟨hvalid, -, ⟨-, rfl⟩ | ⟨w, u, hu, hdecoded⟩⟩ := step_cases hstep
  · exact h
  have huinv := h.takeCommand hu
  obtain ⟨-, rest, -, rfl⟩ := takeCommand_eq_some.1 hu
  rcases hdecoded with ⟨e, -, rfl⟩ | ⟨i, hi, hexec⟩
  · exact huinv.raise _
  · obtain ⟨hwidths, -⟩ := s.cfg.valid_iff.1 hvalid
    exact exec_keeps_inv huinv (s.cfg.widthsOk_iff.1 hwidths).1 (wf_of_decode hi) hexec

/-! ### The writers of the registers and ST -/

/-- Settles O33: a fault leaves every register, and a script writes those its command names. -/
theorem registersHaveOnlyTheirWriters : Obligations.RegistersHaveOnlyTheirWriters := by
  intro i s t h
  rcases exec_cases h with ⟨r, -, rfl⟩ | ⟨-, rfl⟩
  · simp
  · cases i with
    | init clk latch rst => simp [afterScript]
    | reset => simp [afterScript]
    | setfreq f => simp [afterScript]
    | update => simp [afterScript]
    | calib x => simp [afterScript]
    | pwrdn => simp [afterScript]
    | pwrup => simp [afterScript]

/-- A row of R31's table for a command that faults in UNINIT: its script sets ST to `x`. -/
theorem exec_st_row {i : Instr} {s t : State} {x : SeqState} (h : exec i s = .next t)
    (hi : ∀ clk latch rst, i ≠ .init clk latch rst) (hc : ∀ x, i ≠ .calib x)
    (hx : (afterScript i s.accept).st = x) : t.st = if s.st = .uninit then .uninit else x := by
  have hfault := faultOf_eq_none_iff s hi hc
  rcases exec_cases h with ⟨r, hr, rfl⟩ | ⟨hok, rfl⟩
  · have hst : s.st = .uninit := by simpa [hr] using hfault
    rw [if_pos hst, raise_st, hst]
  · rw [if_neg (hfault.1 hok), finish_st, hx]

/-- Settles O34: the table of R31, row by row. -/
theorem sequencerStateTransitions : Obligations.SequencerStateTransitions := by
  intro i s t h
  cases i with
  | init clk latch rst =>
    rcases exec_cases h with ⟨r, hr, rfl⟩ | ⟨hok, rfl⟩
    · refine ⟨fun hnone => ?_, fun _ => raise_st ..⟩
      simp [faultOf, hnone] at hr
    · refine ⟨fun _ => rfl, fun hsome => absurd ?_ hsome⟩
      simpa [faultOf] using hok
  | reset => exact exec_st_row h (by simp) (by simp) rfl
  | setfreq f => exact exec_st_row h (by simp) (by simp) rfl
  | update => exact exec_st_row h (by simp) (by simp) rfl
  | calib x =>
    rcases exec_cases h with ⟨r, hr, -⟩ | ⟨-, rfl⟩
    · cases hr
    · rfl
  | pwrdn => exact exec_st_row h (by simp) (by simp) rfl
  | pwrup => exact exec_st_row h (by simp) (by simp) rfl

/-! ### Within a command -/

/-- What no action changes is at every point within a command what it was at its acceptance. -/
theorem midCommand_fixed (i : Instr) (k : Nat) (s : State) :
    let m := midCommand (commandScript i) k s
    m.busy = true ∧ m.cfg = s.cfg ∧ m.variant = s.variant ∧ m.fault = s.fault ∧ m.host = s.host :=
  ((fixed_keptByActions s.accept).command i (fun _ _ h => h) fun _ _ h => h).midCommand ⟨rfl, rfl, rfl, rfl, rfl⟩ k

/-- At every point within a command SEQ counts the events emitted since its acceptance (R29). -/
theorem midCommand_seq (i : Instr) (k : Nat) (s : State) :
    ∃ es, (midCommand (commandScript i) k s).trace = s.trace ++ es ∧
      (midCommand (commandScript i) k s).seq = es.length := by
  have hext : Extends s.accept (midCommand (commandScript i) k s) :=
    ((extends_keptByActions s.accept).command i (fun _ _ h => h) fun _ _ h => h).midCommand (.refl _) k
  obtain ⟨es, htrace, hseq⟩ := hext
  exact ⟨es, htrace, by rw [hseq, accept_seq, Nat.zero_add]⟩

/-- The events emitted so far within a command stand at the head of those of the whole command (R60). -/
theorem midCommand_trace_head (i : Instr) (k : Nat) (s : State) :
    ∃ es, (runScript (commandScript i) s.accept).trace = (midCommand (commandScript i) k s).trace ++ es := by
  have hcut : runScript (commandScript i) s.accept =
      runScript ((commandScript i).drop k) (midCommand (commandScript i) k s) := by
    rw [midCommand, ← runScript_append, List.take_append_drop]
  rw [hcut]
  exact run_drop_extends i k _

/-- A command that records no fault ran its whole script. -/
theorem complete_of_exec {i : Instr} {s t : State} (h : exec i s = .next t) (hfault : t.fault = none) :
    complete (commandScript i) s = .next t := by
  rcases exec_cases h with ⟨r, -, rfl⟩ | ⟨-, rfl⟩
  · simp at hfault
  · rw [complete_eq_next, run_commandScript]

/-- Settles O42, from what every action keeps and how it extends the trace. -/
theorem busyAndSeqWithinACommand : Obligations.BusyAndSeqWithinACommand := by
  intro i s k
  obtain ⟨hbusy, hcfg, hvariant, hfault, -⟩ := midCommand_fixed i k s
  exact ⟨fun t => complete_of_exec, hbusy, hvariant, hcfg, hfault, midCommand_seq i k s, midCommand_trace_head i k s⟩

/-- Every action but the write of RESETTING itself keeps ST out of RESETTING. -/
theorem notResetting_keptByActions : KeptByActions fun s => s.st ≠ .resetting where
  emit _ _ h := h
  beginBus _ h := h
  endBus _ h := h
  setMosi _ _ h := h
  raiseSclk _ h := h
  lowerSclk _ h := h
  releaseMosi _ h := h
  outputEnable _ _ h := h
  drivePin s src v h := by
    obtain ⟨d, k, hd⟩ := drivePin_spec src v s
    rw [hd]
    exact h
  holdFor _ _ h := h
  active _ _ := by simp
  initRegisters _ _ _ _ h := h
  loadDph _ _ h := h
  setCalib _ _ h := h

/-- Settles O43: the scripts of the other commands have no write of RESETTING. -/
theorem resettingOnlyWithinInitAndReset : Obligations.ResettingOnlyWithinInitAndReset := by
  intro i s k hst hmid
  refine ⟨(midCommand_fixed i k s).1, ?_⟩
  by_contra hi
  have hkept := notResetting_keptByActions.command i (fun h => absurd h hi) fun _ _ _ => by simp
  exact hkept.midCommand (s := s) hst k hmid

/-! ### STAT -/

theorem stat_getLsbD_three (s : State) : s.stat.getLsbD 3 = s.busy := by
  rw [State.stat, BitVec.getLsbD_append, BitVec.getLsbD_append]
  simp

theorem stat_getLsbD_two (s : State) : s.stat.getLsbD 2 = (variantBit s.variant).getLsbD 0 := by
  rw [State.stat, BitVec.getLsbD_append, BitVec.getLsbD_append]
  simp

theorem stat_extractLsb'_zero_two (s : State) : s.stat.extractLsb' 0 2 = seqStateCode s.st := by
  rw [State.stat, BitVec.extractLsb'_append_eq_of_add_le (by decide), BitVec.extractLsb'_eq_self]

theorem stat_powerOn (c : Config) : (State.powerOn c).stat = BitVec.ofBool false ++ variantBit c.variantSel ++ 0#2 :=
  rfl

/-- Settles O7: STAT part by part, with the codes of VARIANT and ST. -/
theorem statShowsBusyVariantAndState : Obligations.StatShowsBusyVariantAndState := by
  refine ⟨fun s => ?_, fun c => ?_⟩
  · have hvariant : (variantBit s.variant).getLsbD 0 = true ↔ s.variant = .typeB := by
      cases s.variant <;> decide
    have hcode : ∀ x, s.st = x → s.stat.extractLsb' 0 2 = seqStateCode x := fun x hx => by
      rw [stat_extractLsb'_zero_two, hx]
    rw [stat_getLsbD_two]
    exact ⟨stat_getLsbD_three s, hvariant, hcode _, hcode _, hcode _, hcode _⟩
  · rw [stat_powerOn]
    exact ⟨fun h => by rw [h]; decide, fun h => by rw [h]; decide⟩

end Sys2Proof.Machine
end

/-! ## The wire and the receiver (spec/20_memory.md): the trace, the bus, the frames and the reference receiver -/

section
namespace Sys2Proof.Machine

/-! ### The receiver holds the stored Control Word (R69, R77) -/

/-- At rest, a frame latched on a pin that is not the reset pin is the receiver's active word, out of power-down. -/
theorem afterUpdate_active {s : State} (hpins : s.pinLatch ≠ s.pinRst) (hn : s.dev.n = 0) (hs : s.dev.stage = .idle) :
    (afterUpdate s).dev.dphAct = s.dph ∧ (afterUpdate s).dev.ctrlAct = s.ctrl ∧
      (afterUpdate s).dev.poweredDown = false := by
  have hcommit := pulsedOn_latch_of_idle (d := s.dev.takeWord s.dph s.ctrl) s.pinClk s.draws hs hpins
  rw [afterUpdate_dev, hcommit, commit_takeWord _ _ _ hn hs]
  exact ⟨rfl, rfl, rfl⟩

/-- At rest, a latch pulse alone does nothing to the receiver. -/
theorem pulsedOn_latch_of_rest {d : Receiver} {rst latch : Pin} (clk : Pin) (k : Nat) (hn : d.n = 0)
    (hs : d.stage = .idle) (hpins : latch ≠ rst) : d.pulsedOn rst clk latch latch k = d := by
  rw [pulsedOn_latch_of_idle clk k hs hpins, commit_empty k hn hs]

/-- At rest, PWRDN's frame puts the receiver in power-down and leaves its active word. -/
theorem afterPwrdn_active {s : State} (hpins : s.pinLatch ≠ s.pinRst) (hn : s.dev.n = 0) (hs : s.dev.stage = .idle) :
    (afterPwrdn s).dev.dphAct = s.dev.dphAct ∧ (afterPwrdn s).dev.ctrlAct = s.dev.ctrlAct ∧
      (afterPwrdn s).dev.poweredDown = true := by
  have hcommit := pulsedOn_latch_of_idle (d := s.dev.takeByte 0x04) s.pinClk (s.draws + 1) hs hpins
  rw [afterPwrdn_dev, pulsedOn_latch_of_rest _ _ hn hs hpins, powerDownByte, hcommit, commit_powerDown _ hn hs]
  exact ⟨rfl, rfl, rfl⟩

/-- After UpdateSeq from a receiver at rest the receiver is in step, whatever it held. -/
theorem receiverInStep_afterUpdate {s : State} (hrest : s.dev.n = 0 ∧ s.dev.stage = .idle) :
    (afterUpdate s).finish.ReceiverInStep := by
  intro _ hpins
  obtain ⟨hdph, hctrl, hpower⟩ := afterUpdate_active (s := s) hpins hrest.1 hrest.2
  refine ⟨hdph, hctrl, ?_⟩
  rw [finish_dev, hpower, finish_st, afterUpdate_st]
  decide

/-- After PWRDN's script from a receiver at rest and in step it is in step. -/
theorem receiverInStep_afterPwrdn {s : State} (hrest : s.dev.n = 0 ∧ s.dev.stage = .idle) (hst : s.st ≠ .uninit)
    (h : s.ReceiverInStep) : (afterPwrdn s).finish.ReceiverInStep := by
  intro _ hpins
  obtain ⟨hdph, hctrl, hpower⟩ := afterPwrdn_active (s := s) hpins hrest.1 hrest.2
  obtain ⟨hheldDph, hheldCtrl, -⟩ := h hst hpins
  refine ⟨hdph.trans hheldDph, hctrl.trans hheldCtrl, ?_⟩
  rw [finish_dev, hpower, finish_st, afterPwrdn_st]
  decide

/-- A recorded fault touches neither the receiver nor what it is compared with. -/
theorem State.ReceiverInStep.raise {s : State} (h : s.ReceiverInStep) (r : FaultReason) :
    (s.raise r).ReceiverInStep := by
  rw [raise_eq_with_fault]
  exact h

/-- The three pulses of ResetSeq end in a latch pulse, which leaves the receiver at rest (R78). -/
theorem afterResetPulses_rest (s : State) :
    (afterResetPulses s).dev.n = 0 ∧ (afterResetPulses s).dev.stage = .idle := pulsedOn_latch_rest ..

/-- A command keeps a receiver at rest in step: each frame brings it in step anew, CALIB touches nothing compared. -/
theorem exec_keeps_receiverInStep {i : Instr} {s t : State} (hrest : s.dev.n = 0 ∧ s.dev.stage = .idle)
    (h : s.ReceiverInStep) (hexec : exec i s = .next t) : t.ReceiverInStep := by
  rcases exec_cases hexec with ⟨r, -, rfl⟩ | ⟨hok, rfl⟩
  · exact h.raise r
  cases i with
  | init clk latch rst => exact receiverInStep_afterUpdate (afterResetPulses_rest _)
  | reset => exact receiverInStep_afterUpdate (afterResetPulses_rest _)
  | setfreq f => exact receiverInStep_afterUpdate hrest
  | update => exact receiverInStep_afterUpdate hrest
  | calib x => exact h
  | pwrdn =>
    have hst : s.st ≠ .uninit := (faultOf_eq_none_iff s (by simp) (by simp)).1 hok
    exact receiverInStep_afterPwrdn (s := s.accept) hrest hst h
  | pwrup => exact receiverInStep_afterUpdate hrest

/-- Settles O39: a step waits, records an illegal word or runs a command, before which the invariant has the receiver at
rest. -/
theorem stepKeepsReceiverInStep : Obligations.StepKeepsReceiverInStep := by
  intro s t hinv h hstep
  obtain ⟨-, -, ⟨-, rfl⟩ | ⟨w, u, hu, hdecoded⟩⟩ := step_cases hstep
  · exact h
  obtain ⟨-, rest, -, rfl⟩ := takeCommand_eq_some.1 hu
  rcases hdecoded with ⟨e, -, rfl⟩ | ⟨i, -, hexec⟩
  · exact State.ReceiverInStep.raise (s := { s with host := rest }) h _
  · exact exec_keeps_receiverInStep (s := { s with host := rest }) hinv.wholeFrames h hexec

/-! ### The trace and the receiver as the block sees them (R60, R68) -/

/-- A command appends to T: nothing where it faults, its events where it runs. -/
theorem exec_trace {i : Instr} {s t : State} (h : exec i s = .next t) : ∃ es, t.trace = s.trace ++ es := by
  rcases exec_cases h with ⟨r, -, rfl⟩ | ⟨-, rfl⟩
  · exact ⟨[], by simp⟩
  · exact ⟨commandEvents i s.accept, afterScript_trace i s.accept⟩

/-- Settles O36: of what a step can do, only a command appends to T. -/
theorem traceOnlyGrows : Obligations.TraceOnlyGrows := by
  intro s t hstep
  obtain ⟨-, -, ⟨-, rfl⟩ | ⟨w, u, hu, hdecoded⟩⟩ := step_cases hstep
  · exact ⟨[], (List.append_nil _).symm⟩
  obtain ⟨-, rest, -, rfl⟩ := takeCommand_eq_some.1 hu
  rcases hdecoded with ⟨e, -, rfl⟩ | ⟨i, -, hexec⟩
  · exact ⟨[], by simp⟩
  · exact exec_trace (s := { s with host := rest }) hexec

/-- Whether a command faults does not depend on the receiver. -/
theorem faultOf_with_dev (i : Instr) (s : State) (d : Receiver) : faultOf i { s with dev := d } = faultOf i s := by
  cases i <;> rfl

/-- A command's script does the same to all else, whatever the receiver holds. -/
theorem afterScript_with_dev (i : Instr) (s : State) (d : Receiver) :
    ∃ d', afterScript i { s with dev := d } = { afterScript i s with dev := d' } := by
  cases i <;> exact ⟨_, rfl⟩

theorem raise_with_dev (s : State) (d : Receiver) (r : FaultReason) :
    ({ s with dev := d } : State).raise r = { s.raise r with dev := d } := by
  cases h : s.fault <;> simp [State.raise, h]

theorem exec_of_fault {i : Instr} {s : State} {r : FaultReason} (h : faultOf i s = some r) :
    exec i s = .next (s.raise r) := by
  rw [exec_eq, h]

theorem exec_of_noFault {i : Instr} {s : State} (h : faultOf i s = none) :
    exec i s = .next (afterScript i s.accept).finish := by
  rw [exec_eq, h]

/-- Settles O40: neither the faults nor the scripts read the receiver. -/
theorem blockNeverReadsTheReceiver : Obligations.BlockNeverReadsTheReceiver := by
  intro i s t d h
  have hfault := faultOf_with_dev i s d
  rcases exec_cases h with ⟨r, hr, rfl⟩ | ⟨hok, rfl⟩
  · exact ⟨d, by rw [exec_of_fault (hfault.trans hr), raise_with_dev]⟩
  · obtain ⟨d', hd⟩ := afterScript_with_dev i s.accept d
    exact ⟨d', (exec_of_noFault (hfault.trans hok)).trans (congrArg (fun u : State => Host.Outcome.next u.finish) hd)⟩

/-! ### The bits of a byte and of a frame (R64, R65, R66) -/

/-- In ByteOut the script of a bit time stands behind the Byte event and the bits before it. -/
theorem byteOut_drop_bit (src : State → Byte) {i : Nat} (hi : i < 8) :
    ∃ rest, (byteOut src).drop (1 + 3 * i) = bitOut src i ++ rest := by
  interval_cases i <;> exact ⟨_, rfl⟩

/-- Within bit i, `j` actions into its bit time. -/
theorem run_byteOut_take_bit (src : State → Byte) (s : State) {i j : Nat} (hi : i < 8) (hj : j ≤ 3) :
    runScript ((byteOut src).take (1 + 3 * i + j)) s =
      runScript ((bitOut src i).take j) (runScript ((byteOut src).take (1 + 3 * i)) s) := by
  obtain ⟨rest, hrest⟩ := byteOut_drop_bit src hi
  rw [List.take_add, runScript_append, hrest, List.take_append_of_le_length hj]

/-- The clock is low at the start of every bit time. -/
theorem sclk_before_bit (src : State → Byte) {s : State} (hs : s.sclk = false) {i : Nat} (hi : i < 8) :
    (runScript ((byteOut src).take (1 + 3 * i)) s).sclk = false := by
  cases i with
  | zero => exact hs
  | succ i =>
    rw [show 1 + 3 * (i + 1) = 1 + 3 * i + 3 by omega, run_byteOut_take_bit src s (by omega) (Nat.le_refl 3)]
    rfl

/-- Settles O45: the three line changes of a bit time, from the state before it. -/
theorem byteIsShiftedLsbFirstInModeZero : Obligations.ByteIsShiftedLsbFirstInModeZero := by
  intro b s i hi hs at_
  have hat : ∀ j ≤ 3, at_ (1 + j + 3 * i) =
      runScript ((bitOut (fun _ => b) i).take j) (runScript ((byteOut fun _ => b).take (1 + 3 * i)) s) := by
    intro j hj
    rw [← run_byteOut_take_bit _ _ hi hj, Nat.add_right_comm]
  have hlow := sclk_before_bit (fun _ => b) hs hi
  rw [hat 1 (by decide), hat 2 (by decide), hat 3 (by decide)]
  exact ⟨⟨rfl, hlow⟩, ⟨rfl, rfl⟩, ⟨rfl, rfl⟩, rfl, rfl⟩

/-- The bits of byte k of DPH are bits 8k to 8k + 7 of DPH (R61). -/
theorem byteBits_dphByte (k : Nat) (d : Phase) :
    byteBits (dphByte k d) = (List.range 8).map fun j => d.getLsbD (8 * k + j) := by
  refine List.map_congr_left fun j hj => ?_
  rw [dphByte, BitVec.getLsbD_extractLsb', decide_eq_true (List.mem_range.1 hj), Bool.true_and]

/-- The wire bits of a frequency frame: DPH, then CTRL, each from its bit 0 (R65). -/
theorem wireBits_frame5 (c : Config) (latch : Pin) (d : Phase) (ctrl : Byte) :
    wireBits (frame5 c latch d ctrl) = (List.range 32).map d.getLsbD ++ byteBits ctrl := by
  have hbytes : wireBits (frame5 c latch d ctrl) =
      byteBits (dphByte 0 d) ++ (byteBits (dphByte 1 d) ++ (byteBits (dphByte 2 d) ++
        (byteBits (dphByte 3 d) ++ (byteBits ctrl ++ [])))) := rfl
  rw [hbytes]
  simp only [byteBits_dphByte]
  rfl

/-- Settles O47: the 32 bits of DPH, then the 8 of CTRL, each read at its index. -/
theorem wireBitOrder : Obligations.WireBitOrder := by
  intro c latch d ctrl
  rw [wireBits_frame5]
  refine ⟨by simp [byteBits], fun i hi => ?_, fun i hlo hhi => ?_, rfl⟩
  · rw [List.getElem?_append_left (by simpa using hi)]
    simp [hi]
  · simp [byteBits, List.getElem?_append_right, hlo, show i - 32 < 8 by omega]

/-- Byte k of DPH as a number. -/
theorem dphByte_toNat (k : Nat) (d : Phase) : (dphByte k d).toNat = d.toNat / 2 ^ (8 * k) % 2 ^ 8 := by
  rw [dphByte, BitVec.extractLsb'_toNat, Nat.shiftRight_eq_div_pow]

/-- Settles O48: the bytes are the base-256 digits of DPH. -/
theorem frameBytesReassembleToDph : Obligations.FrameBytesReassembleToDph := by
  intro d ctrl b0 b1 b2 b3 b4 h
  simp only [frameBytes, List.cons.injEq, and_true] at h
  obtain ⟨rfl, rfl, rfl, rfl, rfl⟩ := h
  have hd := d.isLt
  simp only [dphByte_toNat]
  exact ⟨by omega, trivial⟩

/-! ### The output frequency (R79, R80) -/

/-- Below the calibration frequency the delta phase is the quotient of R111 whole, with no truncation. -/
theorem deltaPhase_toNat_of_lt {f c : Nat} (h : f < c) : (deltaPhase f c).toNat = f * 2 ^ 32 / c := by
  rw [deltaPhase_toNat, Nat.mod_eq_of_lt]
  exact (Nat.div_lt_iff_lt_mul (by omega)).2 (by omega)

/-- The frequency of the phase accumulator at a delta phase, as a fraction of CALIB's. -/
theorem outputHz_operandHz (c : Config) (d : Receiver) (x : Operand) :
    d.outputHz (operandHz c x) = ((d.dphAct.toNat * x : Nat) : Rat) / 2 ^ 32 / 2 ^ c.opFrac := by
  rw [Receiver.outputHz, operandHz]
  push_cast
  ring

/-- Settles O51: floor division leaves F * 2^32 between DPH * CALIB and (DPH + 1) * CALIB. -/
theorem outputFrequencyAccuracy : Obligations.OutputFrequencyAccuracy := by
  intro c d f x hfx hd
  have hquot : d.dphAct.toNat = f * 2 ^ 32 / x := by rw [hd, deltaPhase_toNat_of_lt hfx]
  have hle : d.dphAct.toNat * x ≤ f * 2 ^ 32 := hquot ▸ Nat.div_mul_le_self _ _
  have hlt : f * 2 ^ 32 < d.dphAct.toNat * x + x := by
    rw [hquot]
    exact Nat.lt_div_mul_add (by omega)
  have hone : (0 : Rat) < 2 ^ c.opFrac := by positivity
  have hle' : ((d.dphAct.toNat * x : Nat) : Rat) ≤ f * 2 ^ 32 := by exact_mod_cast hle
  have hlt' : (f : Rat) * 2 ^ 32 < ((d.dphAct.toNat * x : Nat) : Rat) + x := by exact_mod_cast hlt
  rw [outputHz_operandHz, operandHz, operandHz]
  constructor
  · rw [div_le_div_iff_of_pos_right hone]
    linarith
  · rw [div_right_comm (x : Rat), ← sub_div, div_lt_div_iff_of_pos_right hone]
    linarith

/-! ### The bus bracket within a command (R36, R71) -/

/-- What holds along a script holds of it in a weaker form. -/
theorem Along.mono {P Q : State → Prop} {a : Script} {s : State} (h : Along P a s) (hPQ : ∀ t, P t → Q t) :
    Along Q a s := by
  induction a generalizing s with
  | nil => exact hPQ s h
  | cons act a ih => exact ⟨hPQ s h.1, ih h.2⟩

/-- From every state of `A` the script runs within `P` and ends in `B`. -/
def Leads (P A B : State → Prop) (a : Script) : Prop := ∀ s, A s → Along P a s ∧ B (runScript a s)

theorem Leads.append {P A B C : State → Prop} {a b : Script} (ha : Leads P A B a) (hb : Leads P B C b) :
    Leads P A C (a ++ b) := by
  intro s hs
  obtain ⟨halong, hmid⟩ := ha s hs
  obtain ⟨hblong, hend⟩ := hb _ hmid
  exact ⟨halong.append hblong, by rwa [runScript_append]⟩

theorem Leads.single {P A B : State → Prop} {act : State → State} (hA : ∀ s, A s → P s) (hB : ∀ s, B s → P s)
    (h : ∀ s, A s → B (act s)) : Leads P A B [act] :=
  fun s hs => ⟨⟨hA s hs, hB _ (h s hs)⟩, h s hs⟩

theorem Leads.of_kept {P A : State → Prop} {a : Script} (hA : ∀ s, A s → P s) (h : Kept A a) : Leads P A A a :=
  fun _ hs => ⟨(Along.of_kept hs h).mono hA, h.run hs⟩

/-- The rules on the bus that hold at every point within a command. -/
def BusRules (s : State) : Prop :=
  busScan (some false) s.trace = some s.held ∧ (s.mosi = .unspecified → s.sclk = false) ∧
    (s.sclk = true → s.held = true) ∧ (s.held = true → s.rate = s.cfg.sclkHz)

/-- The bus as the trace has it, held or not, with the clock at a level and MOSI driven or not. -/
structure BusAt (held clock driven : Bool) (s : State) : Prop where
  scan : busScan (some false) s.trace = some held
  hold : s.held = held
  rate : held = true → s.rate = s.cfg.sclkHz
  sclk : s.sclk = clock
  mosi : s.mosi = .unspecified → driven = false

namespace BusAt

variable {held clock driven : Bool} {s t : State}

/-- The rules hold where a high clock comes with the bus held and MOSI driven. -/
theorem rules (hclock : clock = true → held = true ∧ driven = true) (h : BusAt held clock driven s) : BusRules s := by
  refine ⟨h.scan.trans (congrArg some h.hold.symm), fun hmosi => ?_, fun hsclk => ?_, fun hheld => ?_⟩
  · rw [h.sclk, ← Bool.not_eq_true]
    intro hc
    simpa [h.mosi hmosi] using hclock hc
  · exact h.hold.trans (hclock (h.sclk.symm.trans hsclk)).1
  · exact h.rate (h.hold.symm.trans hheld)

theorem rules_of_low (h : BusAt held false driven s) : BusRules s := h.rules (by simp)

/-- An event that is none of the bus leaves the bus as it was. -/
theorem of_event (h : BusAt held clock driven s) {e : Event} (he : busScan (some held) [e] = some held)
    (htrace : t.trace = s.trace ++ [e]) (hhold : t.held = s.held) (hrate : t.rate = s.rate) (hcfg : t.cfg = s.cfg)
    (hsclk : t.sclk = s.sclk) (hmosi : t.mosi = s.mosi) : BusAt held clock driven t where
  scan := by rw [htrace, busScan_append, h.scan, he]
  hold := hhold.trans h.hold
  rate hh := by rw [hrate, hcfg, h.rate hh]
  sclk := hsclk.trans h.sclk
  mosi hm := h.mosi (hmosi.symm.trans hm)

/-- Registers other than RATE are of no account. -/
theorem of_unmentioned (h : BusAt held clock driven s) (htrace : t.trace = s.trace) (hhold : t.held = s.held)
    (hrate : t.rate = s.rate) (hcfg : t.cfg = s.cfg) (hsclk : t.sclk = s.sclk) (hmosi : t.mosi = s.mosi) :
    BusAt held clock driven t where
  scan := htrace ▸ h.scan
  hold := hhold.trans h.hold
  rate hh := by rw [hrate, hcfg, h.rate hh]
  sclk := hsclk.trans h.sclk
  mosi hm := h.mosi (hmosi.symm.trans hm)

theorem drivePin (h : BusAt held clock driven s) (src : State → Pin) (v : Bool) :
    BusAt held clock driven (drivePin src v s) := by
  obtain ⟨d, k, hd⟩ := drivePin_spec src v s
  rw [hd]
  exact h.of_event (e := .pin (src s) v) rfl rfl rfl rfl rfl rfl rfl

theorem outputEnable (h : BusAt held clock driven s) (src : State → Pin) :
    BusAt held clock driven (outputEnable src s) :=
  h.of_event (e := .oe (src s)) rfl rfl rfl rfl rfl rfl rfl

theorem holdFor (h : BusAt held clock driven s) (width : Config → Duration) :
    BusAt held clock driven (holdFor width s) :=
  h.of_event (e := .hold (width s.cfg)) rfl rfl rfl rfl rfl rfl rfl

theorem beginBus (h : BusAt false false false s) : BusAt true false false (beginBus s) where
  scan := (busScan_append _ _ _).trans (by rw [h.scan]; rfl)
  hold := rfl
  rate _ := rfl
  sclk := h.sclk
  mosi _ := rfl

theorem endBus (h : BusAt true false false s) : BusAt false false false (endBus s) where
  scan := (busScan_append _ _ _).trans (by rw [h.scan]; rfl)
  hold := rfl
  rate := by simp
  sclk := h.sclk
  mosi _ := rfl

theorem setMosi (h : BusAt true false driven s) (b : Bool) : BusAt true false true (setMosi b s) :=
  ⟨h.scan, h.hold, h.rate, h.sclk, nofun⟩

theorem raiseSclk (h : BusAt true false true s) : BusAt true true true (raiseSclk s) :=
  ⟨h.scan, h.hold, h.rate, rfl, h.mosi⟩

theorem lowerSclk (h : BusAt true true true s) : BusAt true false true (lowerSclk s) :=
  ⟨h.scan, h.hold, h.rate, rfl, h.mosi⟩

theorem releaseMosi (h : BusAt true false driven s) : BusAt true false false (releaseMosi s) :=
  ⟨h.scan, h.hold, h.rate, h.sclk, fun _ => rfl⟩

end BusAt

/-- The script keeps the bus rules, from the lines at rest to the lines at rest, and HELD turns from one value to the
other. -/
abbrev BusLeads (held held' : Bool) : Script → Prop :=
  Leads BusRules (BusAt held false false) (BusAt held' false false)

theorem busLeads_of_kept {held : Bool} {a : Script} (h : Kept (BusAt held false false) a) : BusLeads held held a :=
  .of_kept (fun _ => BusAt.rules_of_low) h

theorem busLeads_single {held held' : Bool} {act : State → State}
    (h : ∀ s, BusAt held false false s → BusAt held' false false (act s)) : BusLeads held held' [act] :=
  .single (fun _ => BusAt.rules_of_low) (fun _ => BusAt.rules_of_low) h

/-- A bit time raises the clock only with the bus held and MOSI driven. -/
theorem leads_bitOut (src : State → Byte) (i : Nat) (driven : Bool) :
    Leads BusRules (BusAt true false driven) (BusAt true false true) (bitOut src i) := by
  have hlow : ∀ driven t, BusAt true false driven t → BusRules t := fun _ _ => BusAt.rules_of_low
  have hhigh : ∀ t, BusAt true true true t → BusRules t := fun _ => BusAt.rules fun _ => ⟨rfl, rfl⟩
  have hset := Leads.single (hlow driven) (hlow true) fun t ht => ht.setMosi ((src t).getLsbD i)
  have hraise := Leads.single (hlow true) hhigh fun _ => BusAt.raiseSclk
  exact hset.append (hraise.append (.single hhigh (hlow true) fun _ => BusAt.lowerSclk))

/-- ByteOut stays within the transaction. -/
theorem busLeads_byteOut (src : State → Byte) : BusLeads true true (byteOut src) := by
  have hbit := fun i => leads_bitOut src i true
  have hbits := ((((((((leads_bitOut src 0 false).append (hbit 1)).append (hbit 2)).append (hbit 3)).append
    (hbit 4)).append (hbit 5)).append (hbit 6)).append (hbit 7))
  have hbyte : BusLeads true true [fun s => s.emit (.byte (src s))] :=
    busLeads_single fun s h => h.of_event (e := .byte (src s)) rfl rfl rfl rfl rfl rfl rfl
  exact (hbyte.append hbits).append
    (.single (fun _ => BusAt.rules_of_low) (fun _ => BusAt.rules_of_low) fun _ => BusAt.releaseMosi)

theorem busLeads_pulse (held : Bool) (src : State → Pin) (width : Config → Duration) :
    BusLeads held held (pulse src width) := by
  refine busLeads_of_kept ?_
  simp only [pulse, kept_cons, kept_nil, and_true]
  exact ⟨fun _ h => h.drivePin src true, fun _ h => h.holdFor width, fun _ h => h.drivePin src false,
    fun _ h => h.holdFor Config.tPw⟩

theorem busLeads_begin : BusLeads false true [beginBus] := busLeads_single fun _ => BusAt.beginBus

theorem busLeads_end : BusLeads true false [endBus] := busLeads_single fun _ => BusAt.endBus

theorem busLeads_setSt (x : SeqState) : BusLeads false false [State.setSt x] :=
  busLeads_single fun _ h => h.of_unmentioned rfl rfl rfl rfl rfl rfl

theorem busLeads_updateSeq : BusLeads false false updateSeq := by
  have hbytes := ((((busLeads_byteOut fun s => dphByte 0 s.dph).append (busLeads_byteOut fun s => dphByte 1 s.dph)).append
    (busLeads_byteOut fun s => dphByte 2 s.dph)).append (busLeads_byteOut fun s => dphByte 3 s.dph)).append
    (busLeads_byteOut State.ctrl)
  have hend := busLeads_end.append (busLeads_setSt .active)
  exact ((busLeads_begin.append hbytes).append (busLeads_pulse true _ _)).append hend

theorem busLeads_setFreqCore (f : Config → Operand) : BusLeads false false (setFreqCore f) := by
  have hload : BusLeads false false [fun s => s.loadDph (f s.cfg)] :=
    busLeads_single fun _ h => h.of_unmentioned rfl rfl rfl rfl rfl rfl
  exact hload.append busLeads_updateSeq

theorem busLeads_resetSeq : BusLeads false false resetSeq :=
  ((((busLeads_setSt .resetting).append (busLeads_pulse false _ _)).append (busLeads_pulse false _ _)).append
    (busLeads_pulse false _ _)).append (busLeads_setFreqCore oneHz)

/-- INIT's register writes and OE events leave the bus as it is. -/
theorem busLeads_initScript (clk latch rst : Pin) : BusLeads false false (initScript clk latch rst) := by
  refine Leads.append (busLeads_of_kept ?_) busLeads_resetSeq
  simp only [kept_cons, kept_nil, and_true]
  exact ⟨fun _ h => h.of_unmentioned rfl rfl rfl rfl rfl rfl, fun _ h => h.outputEnable _, fun _ h => h.outputEnable _,
    fun _ h => h.outputEnable _⟩

theorem busLeads_pwrdnScript : BusLeads false false pwrdnScript :=
  (((((busLeads_pulse false _ _).append busLeads_begin).append (busLeads_byteOut _)).append busLeads_end).append
    (busLeads_pulse false _ _)).append (busLeads_setSt .poweredDown)

/-- Every command runs within the bus rules, from a released bus to a released bus. -/
theorem busLeads_commandScript (i : Instr) : BusLeads false false (commandScript i) := by
  cases i with
  | init clk latch rst => exact busLeads_initScript clk latch rst
  | reset => exact busLeads_resetSeq
  | setfreq f => exact busLeads_setFreqCore fun _ => f
  | update => exact busLeads_updateSeq
  | calib x => exact busLeads_single fun _ h => h.of_unmentioned rfl rfl rfl rfl rfl rfl
  | pwrdn => exact busLeads_pwrdnScript
  | pwrup => exact busLeads_updateSeq

/-- Settles O44: the rules hold along every command's script, so at every point within a command. -/
theorem busBracketHoldsWithinACommand : Obligations.BusBracketHoldsWithinACommand := by
  intro i s k hscan hheld hsclk hmosi
  have hrest : BusAt false false false s.accept := ⟨hscan, hheld, by simp, hsclk, fun _ => rfl⟩
  exact (busLeads_commandScript i _ hrest).1.take k

/-! ### When a frame takes effect (R69, R77) -/

/-- What a frame changes in the receiver: the active registers and the power mode. -/
def Receiver.active (d : Receiver) : Phase × Byte × Bool := (d.dphAct, d.ctrlAct, d.poweredDown)

theorem active_eq_iff {d : Receiver} {w : Phase} {c : Byte} {off : Bool} :
    d.active = (w, c, off) ↔ d.dphAct = w ∧ d.ctrlAct = c ∧ d.poweredDown = off := by
  simp [Receiver.active]

/-- Since `s0` the latch pin has fallen `n` times, and the receiver's active part is `x`. -/
structure Latched (s0 : State) (n : Nat) (x : Phase × Byte × Bool) (s : State) : Prop where
  pin : s.pinLatch = s0.pinLatch
  falls : ∃ es, s.trace = s0.trace ++ es ∧ es.count (.pin s0.pinLatch false) = n
  active : s.dev.active = x

namespace Latched

variable {s0 s t : State} {n : Nat} {x : Phase × Byte × Bool}

theorem accept (s : State) : Latched s 0 s.dev.active s.accept := ⟨rfl, ⟨[], by simp, rfl⟩, rfl⟩

/-- The number of falls among the events since `s0`. -/
theorem count (h : Latched s0 n x s) {es : List Event} (hes : s.trace = s0.trace ++ es) :
    es.count (.pin s0.pinLatch false) = n := by
  obtain ⟨es', hes', hcount⟩ := h.falls
  rwa [List.append_cancel_left (hes.symm.trans hes')]

/-- An event that is no fall of a pin. -/
theorem of_event (h : Latched s0 n x s) (e : Event) (he : ∀ p, e ≠ .pin p false) (htrace : t.trace = s.trace ++ [e])
    (hpin : t.pinLatch = s.pinLatch) (hdev : t.dev = s.dev) : Latched s0 n x t := by
  obtain ⟨es, hes, hcount⟩ := h.falls
  refine ⟨hpin.trans h.pin, ⟨es ++ [e], ?_, ?_⟩, hdev ▸ h.active⟩
  · rw [htrace, hes, List.append_assoc]
  · rw [List.count_append, hcount, List.count_singleton, if_neg (by simpa using he _)]
    rfl

theorem of_unmentioned (h : Latched s0 n x s) (htrace : t.trace = s.trace) (hpin : t.pinLatch = s.pinLatch)
    (hactive : t.dev.active = s.dev.active) : Latched s0 n x t :=
  ⟨hpin.trans h.pin, htrace ▸ h.falls, hactive.trans h.active⟩

/-- The latch pin falls, and the receiver becomes what it becomes. -/
theorem fall (h : Latched s0 n x s) :
    Latched s0 (n + 1) (drivePin State.pinLatch false s).dev.active (drivePin State.pinLatch false s) := by
  obtain ⟨es, hes, hcount⟩ := h.falls
  obtain ⟨d, k, hd⟩ := drivePin_spec State.pinLatch false s
  rw [hd]
  refine ⟨h.pin, ⟨es ++ [.pin s.pinLatch false], ?_, ?_⟩, rfl⟩
  · rw [← List.append_assoc, ← hes]
  · rw [List.count_append, hcount, h.pin, List.count_singleton_self]

/-- A rise of a pin is no pulse yet. -/
theorem rise (h : Latched s0 n x s) (src : State → Pin) : Latched s0 n x (drivePin src true s) := by
  have hdrive : drivePin src true s = (s.emit (.pin (src s) true)).setPin (src s) true := by
    simp [drivePin]
  rw [hdrive]
  exact h.of_event (.pin (src s) true) (by simp) rfl rfl rfl

theorem raiseSclk (h : Latched s0 n x s) : Latched s0 n x (raiseSclk s) := by
  refine h.of_unmentioned rfl rfl ?_
  simp only [Machine.raiseSclk]
  split
  · rfl
  · rfl

end Latched

/-- A script within which the latch pin does not fall and the receiver's active part stays. -/
def Quiet (a : Script) : Prop := ∀ s0 n x, Kept (Latched s0 n x) a

theorem Quiet.append {a b : Script} (ha : Quiet a) (hb : Quiet b) : Quiet (a ++ b) :=
  fun s0 n x => (kept_append _ a b).2 ⟨ha s0 n x, hb s0 n x⟩

theorem quiet_single {act : State → State} (h : ∀ s0 n x s, Latched s0 n x s → Latched s0 n x (act s)) :
    Quiet [act] := fun s0 n x => by simpa using h s0 n x

theorem quiet_bitOut (src : State → Byte) (i : Nat) : Quiet (bitOut src i) := by
  intro s0 n x
  simp only [bitOut, kept_cons, kept_nil, and_true]
  exact ⟨fun _ h => h.of_unmentioned rfl rfl rfl, fun _ h => h.raiseSclk, fun _ h => h.of_unmentioned rfl rfl rfl⟩

theorem quiet_byteOut (src : State → Byte) : Quiet (byteOut src) := by
  have hbit := quiet_bitOut src
  have hbits := (((((((hbit 0).append (hbit 1)).append (hbit 2)).append (hbit 3)).append (hbit 4)).append
    (hbit 5)).append (hbit 6)).append (hbit 7)
  have hbyte : Quiet [fun s => s.emit (.byte (src s))] :=
    quiet_single fun _ _ _ s h => h.of_event (.byte (src s)) (by simp) rfl rfl rfl
  exact (hbyte.append hbits).append (quiet_single fun _ _ _ _ h => h.of_unmentioned rfl rfl rfl)

theorem quiet_beginBus : Quiet [beginBus] :=
  quiet_single fun _ _ _ s h => h.of_event (.beginBus s.cfg.sclkHz) (by simp) rfl rfl rfl

theorem quiet_endBus : Quiet [endBus] := quiet_single fun _ _ _ _ h => h.of_event .endBus (by simp) rfl rfl rfl

theorem quiet_setSt (y : SeqState) : Quiet [State.setSt y] :=
  quiet_single fun _ _ _ _ h => h.of_unmentioned rfl rfl rfl

theorem quiet_holdFor (width : Config → Duration) : Quiet [holdFor width] :=
  quiet_single fun _ _ _ s h => h.of_event (.hold (width s.cfg)) (by simp) rfl rfl rfl

theorem quiet_rise (width : Config → Duration) : Quiet [drivePin State.pinLatch true, holdFor width] :=
  (quiet_single fun _ _ _ _ h => h.rise State.pinLatch).append (quiet_holdFor width)

/-- Around one fall of the latch pin the receiver's active part takes one new value, which it has at the end. -/
theorem along_fall {a b : Script} (ha : Quiet a) (hb : Quiet b) {s0 s : State} {n : Nat} {x y : Phase × Byte × Bool}
    (h : Latched s0 n x s) (hy : (runScript (a ++ drivePin State.pinLatch false :: b) s).dev.active = y) :
    Along (fun t => Latched s0 n x t ∨ Latched s0 (n + 1) y t) (a ++ drivePin State.pinLatch false :: b) s ∧
      Latched s0 (n + 1) y (runScript (a ++ drivePin State.pinLatch false :: b) s) := by
  have hbefore := (ha s0 n x).run h
  have hend := (hb s0 _ _).run hbefore.fall
  rw [runScript_append, runScript_cons] at hy ⊢
  have hfall : (drivePin State.pinLatch false (runScript a s)).dev.active = y := hend.active.symm.trans hy
  rw [hfall] at hend
  have hafter := Along.of_kept (hfall ▸ hbefore.fall) (hb s0 (n + 1) y)
  exact ⟨((Along.of_kept h (ha s0 n x)).mono fun _ => .inl).append ⟨.inl hbefore, hafter.mono fun _ => .inr⟩, hend⟩

/-- Within UpdateSeq the receiver has its old active part before the fall of the latch pin, and its last one from then
on. -/
theorem midCommand_updateSeq_latched (k : Nat) (s : State) :
    Latched s 0 s.dev.active (midCommand updateSeq k s) ∨
      Latched s 1 (afterUpdate s.accept).dev.active (midCommand updateSeq k s) := by
  have hbytes := ((((quiet_byteOut fun s => dphByte 0 s.dph).append (quiet_byteOut fun s => dphByte 1 s.dph)).append
    (quiet_byteOut fun s => dphByte 2 s.dph)).append (quiet_byteOut fun s => dphByte 3 s.dph)).append
    (quiet_byteOut State.ctrl)
  have hsend := (quiet_beginBus.append hbytes).append (quiet_rise Config.tPw)
  have hsettle := ((quiet_holdFor Config.tPw).append quiet_endBus).append (quiet_setSt .active)
  have hrun : (runScript updateSeq s.accept).dev.active = (afterUpdate s.accept).dev.active := by rw [run_updateSeq]
  exact (along_fall hsend hsettle (.accept s) hrun).1.take k

/-- Within PWRDN the first latch pulse finds a receiver at rest, and the second makes it what it is at the end. -/
theorem midCommand_pwrdnScript_latched (k : Nat) {s : State} (hpins : s.pinLatch ≠ s.pinRst) (hn : s.dev.n = 0)
    (hs : s.dev.stage = .idle) :
    (Latched s 0 s.dev.active (midCommand pwrdnScript k s) ∨ Latched s 1 s.dev.active (midCommand pwrdnScript k s)) ∨
      Latched s 2 (afterPwrdn s.accept).dev.active (midCommand pwrdnScript k s) := by
  have hsend := ((quiet_beginBus.append (quiet_byteOut fun _ => powerDownByte)).append quiet_endBus).append
    (quiet_rise Config.tPw)
  have hsettle := (quiet_holdFor Config.tPw).append (quiet_setSt .poweredDown)
  have hpulse : (runScript (pulse State.pinLatch Config.tPw) s.accept).dev.active = s.dev.active := by
    rw [run_pulse_latch]
    exact congrArg _ (pulsedOn_latch_of_rest _ _ hn hs hpins)
  obtain ⟨hfirst, hmid⟩ := along_fall (quiet_rise Config.tPw) (quiet_holdFor Config.tPw) (.accept s) hpulse
  have hrun : (runScript pwrdnScript s.accept).dev.active = (afterPwrdn s.accept).dev.active := by
    rw [run_pwrdnScript]
  have hsecond := (along_fall hsend hsettle hmid hrun).1
  have hwhole : Along (fun t => (Latched s 0 s.dev.active t ∨ Latched s 1 s.dev.active t) ∨
      Latched s 2 (afterPwrdn s.accept).dev.active t) pwrdnScript s.accept :=
    (hfirst.mono fun _ => .inl).append (hsecond.mono fun _ => Or.imp_left .inr)
  exact hwhole.take k

/-- Settles O46: the number of falls so far tells whether the frame has been latched. -/
theorem activeRegistersWaitForTheLatch : Obligations.ActiveRegistersWaitForTheLatch := by
  intro s k es
  refine ⟨fun htrace hnofall => ?_, fun hpins hn hs => ⟨fun htrace hfall => ?_, fun htrace => ?_⟩⟩
  · rcases midCommand_updateSeq_latched k s with h | h
    · exact active_eq_iff.1 h.active
    · exact absurd (List.count_eq_zero.2 hnofall) (by rw [h.count htrace]; decide)
  · rcases midCommand_updateSeq_latched k s with h | h
    · exact absurd hfall (List.count_eq_zero.1 (h.count htrace))
    · exact active_eq_iff.1 (h.active.trans (active_eq_iff.2 (afterUpdate_active (s := s.accept) hpins hn hs)))
  · rcases midCommand_pwrdnScript_latched k hpins hn hs with (h | h) | h
    · rw [h.count htrace]
      exact active_eq_iff.1 h.active
    · rw [h.count htrace]
      exact active_eq_iff.1 h.active
    · rw [h.count htrace]
      exact active_eq_iff.1 (h.active.trans (active_eq_iff.2 (afterPwrdn_active (s := s.accept) hpins hn hs)))

end Sys2Proof.Machine
end

/-! ## The command word and the port (spec/30_encoding.md): decoder, assembler and the acceptance of a word -/

section
namespace Sys2Proof

/-! ### Every legal word has one meaning (R92, R98) -/

theorem noOperand_eq_ok_iff {i j : Instr} {opc : Opcode} {opnd : Operand} :
    noOperand i opc opnd = .ok j ↔ opnd = 0 ∧ i = j := by
  by_cases h : opnd = 0 <;> simp [noOperand, h]

/-- An INIT operand whose reserved bits are zero is the operand of the command its pin fields name (R94). -/
theorem operandOf_initFields {c : Config} {o : Operand} (hw : 3 * c.pinW ≤ c.opW) (ho : o < 2 ^ c.opW)
    (hreserved : initReserved c o = 0) :
    operandOf c (.init (clkField c o) (latchField c o) (rstField c o)) = o := by
  have hfields := append_initFields c hw ho
  rwa [hreserved, Nat.zero_mul, Nat.zero_add, ← Nat.add_assoc] at hfields

/-- The case split of R98 gives only the command whose opcode and operand it was given: no bit is dropped. -/
theorem fields_of_decodeFields {c : Config} {opc : Opcode} {o : Operand} {i : Instr} (hw : 3 * c.pinW ≤ c.opW)
    (ho : o < 2 ^ c.opW) (h : decodeFields c opc o = .ok i) : opcodeOf i = opc ∧ operandOf c i = o := by
  unfold decodeFields at h
  split_ifs at h with hinit hbits hreset hsetfreq hupdate hcalib hpwrdn hpwrup
  · cases h
    exact ⟨hinit.symm, operandOf_initFields hw ho hbits⟩
  · obtain ⟨hzero, rfl⟩ := noOperand_eq_ok_iff.1 h
    exact ⟨hreset.symm, hzero.symm⟩
  · cases h
    exact ⟨hsetfreq.symm, rfl⟩
  · obtain ⟨hzero, rfl⟩ := noOperand_eq_ok_iff.1 h
    exact ⟨hupdate.symm, hzero.symm⟩
  · cases h
    exact ⟨hcalib.symm, rfl⟩
  · obtain ⟨hzero, rfl⟩ := noOperand_eq_ok_iff.1 h
    exact ⟨hpwrdn.symm, hzero.symm⟩
  · obtain ⟨hzero, rfl⟩ := noOperand_eq_ok_iff.1 h
    exact ⟨hpwrup.symm, hzero.symm⟩

/-- A word that decodes has CMDW bits, and its two fields are what R98 reads. -/
theorem decode_eq_ok_iff {c : Config} {w : CmdWord} {i : Instr} :
    decode c w = .ok i ↔ w < 2 ^ c.cmdW ∧ decodeFields c (opcodeField c w) (operandField c w) = .ok i := by
  unfold decode
  split
  · rename_i hwide
    simp [Nat.not_lt.2 hwide]
  · rename_i hfits
    simp [Nat.not_le.1 hfits]

/-- Encoding inverts decoding where INIT's three pins fit in the operand. -/
theorem encode_of_decode {c : Config} {w : CmdWord} {i : Instr} (hw : 3 * c.pinW ≤ c.opW) (h : decode c w = .ok i) :
    encode c i = w := by
  obtain ⟨hfits, hfields⟩ := decode_eq_ok_iff.1 h
  obtain ⟨hopc, hopnd⟩ := fields_of_decodeFields hw (bitField_lt _ _ _) hfields
  rw [encode, hopc, hopnd]
  exact append_fields c hfits

/-- Settles O2: the opcode and operand R98 reads are those of the command it gives, and they make the word. -/
theorem encodeDecodeRoundTrip : Obligations.EncodeDecodeRoundTrip := by
  intro c w i hc h
  exact ⟨encode_of_decode (c.widthsOk_iff.1 hc).2 h, wf_of_decode h⟩

/-! ### The illegal words (R97) -/

/-- What R98 asks of the two fields of a word. -/
theorem exists_decodeFields_iff (c : Config) (opc : Opcode) (o : Operand) :
    (∃ i, decodeFields c opc o = .ok i) ↔
      opc = 0x01 ∧ initReserved c o = 0 ∨ (opc = 0x02 ∨ opc = 0x04 ∨ opc = 0x06 ∨ opc = 0x07) ∧ o = 0 ∨
        opc = 0x03 ∨ opc = 0x05 := by
  unfold decodeFields
  split_ifs <;> simp_all [noOperand_eq_ok_iff]

theorem initReserved_eq_zero_iff {c : Config} {o : Operand} (hw : 3 * c.pinW ≤ c.opW) (ho : o < 2 ^ c.opW) :
    initReserved c o = 0 ↔ o < 2 ^ (3 * c.pinW) := by
  have hsplit : 2 ^ (c.opW - 3 * c.pinW) * 2 ^ (3 * c.pinW) = 2 ^ c.opW := Nat.pow_sub_mul_pow 2 hw
  have hfit : o / 2 ^ (3 * c.pinW) < 2 ^ (c.opW - 3 * c.pinW) := by
    rwa [Nat.div_lt_iff_lt_mul (Nat.two_pow_pos _), hsplit]
  rw [initReserved, bitField, Nat.mod_eq_of_lt hfit]
  simp [Nat.div_eq_zero_iff]

/-- R97's conditions on a word put together from an opcode and an operand. -/
theorem legal_append_iff (c : Config) (opc : Opcode) {o : Nat} (ho : o < 2 ^ c.opW) :
    CmdWord.legal c (opc.toNat * 2 ^ c.opW + o) = true ↔
      opc = 0x01 ∧ o < 2 ^ (3 * c.pinW) ∨ (opc = 0x02 ∨ opc = 0x04 ∨ opc = 0x06 ∨ opc = 0x07) ∧ o = 0 ∨
        opc = 0x03 ∨ opc = 0x05 := by
  have hopc : (opc.toNat * 2 ^ c.opW + o) >>> c.opW = opc.toNat := by
    rw [Nat.shiftRight_eq_div_pow, Nat.add_comm, Nat.add_mul_div_right _ _ (Nat.two_pow_pos _), Nat.div_eq_of_lt ho,
      Nat.zero_add]
  have hopnd : opc.toNat * 2 ^ c.opW + o - opc.toNat <<< c.opW = o := by
    rw [Nat.shiftLeft_eq, Nat.add_sub_cancel_left]
  have hbyte : opc.toNat < 256 := opc.isLt
  rw [CmdWord.legal, hopc, hopnd]
  simp only [append_lt_cmdW c opc ho, decide_true, Bool.not_or, Bool.not_and, Bool.true_and, Bool.and_eq_true,
    Bool.not_eq_eq_eq_not, Bool.not_true, beq_eq_false_iff_ne, decide_eq_false_iff_not, not_le, Bool.or_eq_true,
    bne_eq_false_iff_eq, ← BitVec.toNat_inj, BitVec.ofNat_eq_ofNat, BitVec.toNat_ofNat]
  dsimp only [CmdWord]
  omega

/-- The decoder takes a word exactly when R97 does not call it illegal. -/
theorem exists_decode_iff_legal {c : Config} (w : CmdWord) (hw : 3 * c.pinW ≤ c.opW) :
    (∃ i, decode c w = .ok i) ↔ CmdWord.legal c w = true := by
  by_cases hfits : w < 2 ^ c.cmdW
  · have hopnd : operandField c w < 2 ^ c.opW := bitField_lt _ _ _
    have hlegal := legal_append_iff c (opcodeField c w) hopnd
    rw [append_fields c hfits, ← initReserved_eq_zero_iff hw hopnd, ← exists_decodeFields_iff] at hlegal
    rw [hlegal]
    exact exists_congr fun i => decode_eq_ok_iff.trans (and_iff_right hfits)
  · have hillegal : CmdWord.legal c w = false := by simp [CmdWord.legal, hfits]
    simp [decode_eq_ok_iff, hfits, hillegal]

/-- Settles O3: R98 and R97 ask the same of the two fields of a word of CMDW bits. -/
theorem decoderAcceptsExactlyLegalWords : Obligations.DecoderAcceptsExactlyLegalWords := by
  intro c w hc
  exact exists_decode_iff_legal w (c.widthsOk_iff.1 hc).2

theorem exists_error_of_illegal {c : Config} {w : CmdWord} (hw : 3 * c.pinW ≤ c.opW)
    (h : CmdWord.legal c w = false) : ∃ e, decode c w = .error e := by
  cases hd : decode c w with
  | error e => exact ⟨e, rfl⟩
  | ok i =>
    have hlegal := (exists_decode_iff_legal w hw).1 ⟨i, hd⟩
    exact absurd hlegal (by simp [h])

/-! ### Listed words (spec/95_test_vectors.md) -/

/-- Settles O4: a build with the default widths decodes as the default build does, where the words are computed. -/
theorem vectorWordsDecodeAsListed : Obligations.VectorWordsDecodeAsListed := by
  intro c hopW hpinW
  have hdefault : ∀ w, decode c w = decode Config.default w := fun w => decode_congr w hopW hpinW
  simp only [hdefault]
  decide

theorem decode_of_decodeTableWord {nbits w : Nat} {i : Instr} (h : decodeTableWord nbits w = some i) :
    decode Config.default (tableWord nbits w) = .ok i := by
  unfold decodeTableWord at h
  split at h
  · rename_i hd
    rw [hd, Option.some.inj h]
  · cases h

end Sys2Proof

namespace Sys2Proof.Machine

/-! ### The assembler (R101) -/

theorem scaled_eq_some_iff {n : AsmNumber} {shift v : Nat} :
    n.scaled shift = some v ↔ v * 10 ^ n.places = n.digits * 2 ^ shift := by
  have hpos : 0 < 10 ^ n.places := Nat.pow_pos (by decide)
  unfold AsmNumber.scaled
  split
  · rename_i hwhole
    rw [Option.some.injEq, Nat.div_eq_iff_eq_mul_left hpos (Nat.dvd_of_mod_eq_zero hwhole), eq_comm]
  · rename_i hpart
    refine iff_of_false (by simp) fun h => hpart ?_
    rw [← h, Nat.mul_mod_left]

theorem asmFrequency_eq_some_iff {c : Config} {n : AsmNumber} {v : Operand} :
    asmFrequency c n = some v ↔ v * 10 ^ n.places = n.digits * 2 ^ c.opFrac ∧ v < 2 ^ c.opW := by
  rw [← scaled_eq_some_iff, asmFrequency]
  cases n.scaled c.opFrac with
  | none => simp
  | some u =>
    simp only [Config.operandFits, decide_eq_true_eq, Option.ite_none_right_eq_some, Option.some.injEq]
    exact ⟨fun ⟨hu, h⟩ => ⟨h, h ▸ hu⟩, fun ⟨h, hv⟩ => ⟨h ▸ hv, h⟩⟩

/-- A pin operand with no decimal point is its digits, where they fit in PIN_W bits. -/
theorem asmPin_whole (c : Config) (k : Nat) : asmPin c ⟨k, 0⟩ = if k < 2 ^ c.pinW then some k else none := by
  have hk : AsmNumber.scaled ⟨k, 0⟩ 0 = some k := scaled_eq_some_iff.2 rfl
  simp [asmPin, hk, Config.pinFits]

theorem assemble_init_whole (c : Config) (k l r : Nat) :
    (AsmLine.init ⟨k, 0⟩ ⟨l, 0⟩ ⟨r, 0⟩).assemble c =
      if k < 2 ^ c.pinW ∧ l < 2 ^ c.pinW ∧ r < 2 ^ c.pinW then some (encode c (.init k l r)) else none := by
  simp only [AsmLine.assemble, AsmLine.command, asmPin_whole]
  by_cases hk : k < 2 ^ c.pinW
  · by_cases hl : l < 2 ^ c.pinW
    · by_cases hr : r < 2 ^ c.pinW
      · simp [hk, hl, hr]
      · simp [hr]
    · simp [hl]
  · simp [hk]

/-- Settles O5: the three operand conditions of R101, and the word of a line without operands. -/
theorem assemblerEncodesOrRefuses : Obligations.AssemblerEncodesOrRefuses := by
  intro c
  refine ⟨assemble_init_whole c, fun n v hv hfits => ?_, fun n hnone => ?_, rfl, rfl, rfl, rfl⟩
  · have hf : asmFrequency c n = some v := asmFrequency_eq_some_iff.2 ⟨hv, hfits⟩
    simp only [AsmLine.assemble, AsmLine.command, hf]
    exact ⟨rfl, rfl⟩
  · have hf : asmFrequency c n = none := by
      refine Option.eq_none_iff_forall_ne_some.2 fun v hv => ?_
      obtain ⟨heq, hfits⟩ := asmFrequency_eq_some_iff.1 hv
      exact hnone v hfits heq
    simp only [AsmLine.assemble, AsmLine.command, hf]
    exact ⟨rfl, rfl⟩

/-! ### The command port (R90, R91, R97) -/

theorem step_of_nothingTaken {s : State} (hvalid : s.cfg.valid = true) (hfault : s.fault = none)
    (htake : takeCommand s = none) : step s = .next s := by
  simp [step, hvalid, hfault, htake]

theorem step_of_decode_ok {s t : State} {w : CmdWord} {i : Instr} (hvalid : s.cfg.valid = true)
    (hfault : s.fault = none) (htake : takeCommand s = some (w, t)) (hdecode : decode t.cfg w = .ok i) :
    step s = exec i t := by
  simp [step, hvalid, hfault, htake, hdecode]

theorem step_of_decode_error {s t : State} {w : CmdWord} {e : DecodeError} (hvalid : s.cfg.valid = true)
    (hfault : s.fault = none) (htake : takeCommand s = some (w, t)) (hdecode : decode t.cfg w = .error e) :
    step s = .next (t.raise (.illegalCommand w)) := by
  simp [step, hvalid, hfault, htake, hdecode, takeFault]

/-- Settles O10: the port takes nothing then, and a step that takes nothing waits. -/
theorem portTakesNothingUnlessReady : Obligations.PortTakesNothingUnlessReady := by
  intro s hvalid hfault hwait
  exact step_of_nothingTaken hvalid hfault (takeCommand_eq_none.2 hwait)

/-- Settles O8: the port takes the first word presented, and the step runs what it decodes to. -/
theorem stepRunsTheDecodedCommand : Obligations.StepRunsTheDecodedCommand := by
  intro s w rest i hvalid hfault hbusy hhost hdecode
  exact step_of_decode_ok hvalid hfault (takeCommand_eq_some.2 ⟨hbusy, rest, hhost, rfl⟩) hdecode

/-- Settles O9: the decoder refuses an illegal word, and FAULT was empty, so it takes the word. -/
theorem illegalWordOnlyRecordsItself : Obligations.IllegalWordOnlyRecordsItself := by
  intro s w rest hvalid hfault hbusy hhost hillegal
  have hpins := (s.cfg.widthsOk_iff.1 (s.cfg.valid_iff.1 hvalid).1).2
  obtain ⟨e, hdecode⟩ := exists_error_of_illegal hpins hillegal
  rw [step_of_decode_error hvalid hfault (takeCommand_eq_some.2 ⟨hbusy, rest, hhost, rfl⟩) hdecode]
  exact congrArg _ (raise_of_empty { s with host := rest } _ hfault)

/-- Settles O13: the placed word stands first on a ready port with no fault, and its removal leaves the other words. -/
theorem presentedTableWordRunsNext : Obligations.PresentedTableWordRunsNext := by
  intro s nbits w i hvalid hword
  have hdecode : decode s.cfg (tableWord nbits w) = .ok i := by
    rcases hword with h | ⟨hopW, hpinW, h⟩
    · exact h
    · rw [decode_congr (d := Config.default) _ hopW hpinW]
      exact decode_of_decodeTableWord h
  exact stepRunsTheDecodedCommand (s.withFetchWord nbits w) (tableWord nbits w) s.host i hvalid rfl rfl rfl hdecode

end Sys2Proof.Machine
end

/-! ## The datapath (spec/40_datapath.md): the delta phase, the restoring divider and the events of a command -/

section
namespace Sys2Proof.Machine

/-! ### The delta phase (R111, R113) -/

/-- Whole periods of CALIB make whole multiples of 2^32, which the truncation drops (R113). -/
theorem deltaPhase_add_mul (f k : Nat) {c : Nat} (hc : 0 < c) : deltaPhase (f + k * c) c = deltaPhase f c := by
  refine BitVec.eq_of_toNat_eq ?_
  have hquot : (f + k * c) * 2 ^ 32 / c = f * 2 ^ 32 / c + k * 2 ^ 32 := by
    rw [Nat.add_mul, Nat.mul_right_comm, Nat.add_mul_div_right _ _ hc]
  rw [deltaPhase_toNat, deltaPhase_toNat, hquot, Nat.add_mul_mod_self_right]

theorem deltaPhase_zero (c : Nat) : deltaPhase 0 c = 0 := by simp [deltaPhase]

theorem deltaPhase_toNat_mono {f g c : Nat} (hfg : f ≤ g) (hg : g < c) :
    (deltaPhase f c).toNat ≤ (deltaPhase g c).toNat := by
  rw [deltaPhase_toNat_of_lt (hfg.trans_lt hg), deltaPhase_toNat_of_lt hg]
  exact Nat.div_le_div_right (Nat.mul_le_mul_right _ hfg)

/-- The greatest operand below CALIB falls short of 2^32 by 2^32 / CALIB, rounded up (R113). -/
theorem deltaPhase_pred_toNat {c : Nat} (hc : 0 < c) :
    (deltaPhase (c - 1) c).toNat = 2 ^ 32 - (2 ^ 32 + c - 1) / c := by
  have hceil : (2 ^ 32 + c - 1) / c = (2 ^ 32 - 1) / c + 1 := by
    rw [← Nat.add_div_right _ hc, Nat.sub_add_comm (by decide)]
  have hprod : (c - 1) * 2 ^ 32 = c * 2 ^ 32 - (2 ^ 32 - 1 + 1) := Nat.sub_one_mul c (2 ^ 32)
  rw [deltaPhase_toNat_of_lt (Nat.sub_lt hc Nat.one_pos), hprod, Nat.mul_sub_div _ _ _ (by omega), hceil]

/-- The word SetFreqCore loads depends on CALIB and the operand only (R113). -/
theorem loadDph_dph_of_calib {s : State} {c : Operand} (f : Operand) (hs : s.calib = c) (hc : c ≠ 0) :
    (s.loadDph f).dph = deltaPhase f c := by
  rw [loadDph_dph, hs, computedDph_of_ne f _ hc]

/-- Settles O49: the laws follow from the periodicity of the delta phase and from its value below CALIB. -/
theorem deltaPhaseLaws : Obligations.DeltaPhaseLaws := by
  intro c hc
  have hpos : 0 < c := Nat.pos_of_ne_zero hc
  refine ⟨fun f hf => ?below, deltaPhase_zero c, fun k => ?multiple, fun f => ?periodic,
    fun f g => deltaPhase_toNat_mono, deltaPhase_pred_toNat hpos, fun s t f hs ht => ?same⟩
  case below =>
    have hvalue := deltaPhase_toNat_of_lt hf
    exact ⟨hvalue ▸ (deltaPhase f c).isLt, hvalue⟩
  case multiple => rw [← Nat.zero_add (k * c), deltaPhase_add_mul 0 k hpos, deltaPhase_zero]
  case periodic =>
    conv_lhs => rw [← Nat.mod_add_div' f c]
    exact deltaPhase_add_mul _ _ hpos
  case same => rw [loadDph_dph_of_calib f hs hc, loadDph_dph_of_calib f ht hc]

/-! ### The restoring divider (R115) -/

/-- The divider's registers once it has taken in the bits of `n`: remainder and quotient of the division by `c`. -/
def DividerState.ofDividend (c n : Nat) : DividerState := { rem := n % c, quo := n / c }

/-- One cycle divides the dividend with the next bit shifted in. -/
theorem divideCycle_ofDividend {c : Nat} (hc : 0 < c) (bit : Bool) (n : Nat) :
    divideCycle c bit (.ofDividend c n) = .ofDividend c (2 * n + bit.toNat) := by
  have hn : n % c + c * (n / c) = n := Nat.mod_add_div n c
  have hrem : n % c < c := Nat.mod_lt n hc
  have hbit : bit.toNat ≤ 1 := bit.toNat_le
  unfold divideCycle DividerState.ofDividend
  dsimp only
  split
  case isTrue hle =>
    obtain ⟨hquo, hmod⟩ : (2 * n + bit.toNat) / c = 2 * (n / c) + 1 ∧
        (2 * n + bit.toNat) % c = 2 * (n % c) + bit.toNat - c :=
      (Nat.div_mod_unique hc).2 ⟨by rw [Nat.mul_add, Nat.mul_left_comm]; omega, by omega⟩
    rw [hquo, hmod]
  case isFalse hlt =>
    obtain ⟨hquo, hmod⟩ : (2 * n + bit.toNat) / c = 2 * (n / c) ∧
        (2 * n + bit.toNat) % c = 2 * (n % c) + bit.toNat :=
      (Nat.div_mod_unique hc).2 ⟨by rw [Nat.mul_left_comm]; omega, by omega⟩
    rw [hquo, hmod]

/-- The bits of `a` from bit k up are those from bit k + 1 up, then bit k. -/
theorem div_two_pow_eq_testBit (a k : Nat) : a / 2 ^ k = 2 * (a / 2 ^ (k + 1)) + (a.testBit k).toNat := by
  rw [Nat.toNat_testBit, Nat.pow_succ, ← Nat.div_div_eq_div_mul, Nat.div_add_mod]

/-- From the dividend's bits above the low `k`, `k` cycles divide the whole dividend. -/
theorem divideCycles_ofDividend {c : Nat} (hc : 0 < c) (a k : Nat) :
    divideCycles c a k (.ofDividend c (a / 2 ^ k)) = .ofDividend c a := by
  induction k with
  | zero => rw [divideCycles, Nat.pow_zero, Nat.div_one]
  | succ k ih => rw [divideCycles, divideCycle_ofDividend hc, ← div_two_pow_eq_testBit, ih]

/-- Settles O50: the divider starts from the bits above the dividend's OPW + 32, of which there are none. -/
theorem restoringDividerComputesDeltaPhase : Obligations.RestoringDividerComputesDeltaPhase := by
  intro opW f c hf hc
  have hwidth : f <<< 32 < 2 ^ (opW + 32) := by
    rw [Nat.shiftLeft_eq, Nat.pow_add]
    exact Nat.mul_lt_mul_of_pos_right hf (Nat.two_pow_pos 32)
  have hstart : DividerState.ofDividend c (f <<< 32 / 2 ^ (opW + 32)) = { rem := 0, quo := 0 } := by
    rw [Nat.div_eq_of_lt hwidth, DividerState.ofDividend, Nat.zero_mod, Nat.zero_div]
  rw [restoringDeltaPhase, ← hstart, divideCycles_ofDividend (Nat.pos_of_ne_zero hc)]
  rfl

/-! ### The events of a command (R119, R121) -/

@[simp] theorem length_pulseEvents (c : Config) (p : Pin) (w : Duration) : (pulseEvents c p w).length = 4 := rfl

@[simp] theorem length_frame5 (c : Config) (p : Pin) (d : Phase) (b : Byte) : (frame5 c p d b).length = 11 := rfl

@[simp] theorem length_framePd (c : Config) (p : Pin) : (framePd c p).length = 11 := rfl

@[simp] theorem length_resetEvents (c : Config) (clk latch rst : Pin) (d : Phase) (b : Byte) :
    (resetEvents c clk latch rst d b).length = 23 := rfl

/-- A command that records no fault appends its events to T. -/
theorem exec_appends_commandEvents {i : Instr} {s t : State} (h : exec i s = .next t) (hfault : t.fault = none) :
    t.trace = s.trace ++ commandEvents i s.accept := by
  rcases exec_cases h with ⟨r, -, rfl⟩ | ⟨-, rfl⟩
  · simp at hfault
  · exact afterScript_trace i s.accept

/-- Settles O35: the events of each command, counted by its pulses and frames. -/
theorem eventCounts : Obligations.EventCounts := by
  refine ⟨fun i s t h hfault => ⟨_, exec_appends_commandEvents h hfault, ?_⟩, fun c p q r w d b =>
    ⟨length_pulseEvents c p w, length_frame5 c p d b, length_framePd c p, length_resetEvents c p q r d b⟩⟩
  cases i with
  | init clk latch rst => simp [commandEvents]
  | reset => exact length_resetEvents ..
  | setfreq f => exact length_frame5 ..
  | update => exact length_frame5 ..
  | calib x => rfl
  | pwrdn => exact length_framePd ..
  | pwrup => exact length_frame5 ..

theorem hold_mem_pulseEvents (c : Config) (p : Pin) (w x : Duration) :
    Event.hold x ∈ pulseEvents c p w ↔ x = w ∨ x = c.tPw := by
  simp [pulseEvents]

theorem hold_mem_frame5 (c : Config) (p : Pin) (d : Phase) (b : Byte) (x : Duration) :
    Event.hold x ∈ frame5 c p d b ↔ x = c.tPw := by
  simp [frame5, hold_mem_pulseEvents]

theorem hold_mem_framePd (c : Config) (p : Pin) (x : Duration) : Event.hold x ∈ framePd c p ↔ x = c.tPw := by
  simp [framePd, hold_mem_pulseEvents]

theorem hold_mem_resetEvents (c : Config) (clk latch rst : Pin) (d : Phase) (b : Byte) (x : Duration) :
    Event.hold x ∈ resetEvents c clk latch rst d b ↔ x = c.tRstPw ∨ x = c.tPw := by
  simp [resetEvents, hold_mem_pulseEvents, hold_mem_frame5]

/-- Every hold of a command is one of the two pulse widths of its build (R116, R121). -/
theorem hold_of_mem_commandEvents {i : Instr} {s : State} {x : Duration} (h : Event.hold x ∈ commandEvents i s) :
    x = s.cfg.tRstPw ∨ x = s.cfg.tPw := by
  cases i with
  | init clk latch rst =>
    rcases List.mem_append.1 h with hpins | hreset
    · simp at hpins
    · exact (hold_mem_resetEvents ..).1 hreset
  | reset => exact (hold_mem_resetEvents ..).1 h
  | setfreq f => exact .inr ((hold_mem_frame5 ..).1 h)
  | update => exact .inr ((hold_mem_frame5 ..).1 h)
  | calib x => cases h
  | pwrdn => exact .inr ((hold_mem_framePd ..).1 h)
  | pwrup => exact .inr ((hold_mem_frame5 ..).1 h)

/-- Settles O57: the model refuses a build with a pulse width of 0. -/
theorem everyHoldIsPositive : Obligations.EveryHoldIsPositive := by
  intro i s t es w hvalid h hes hw
  obtain ⟨-, -, hpulses, -⟩ := s.cfg.valid_iff.1 hvalid
  obtain ⟨hrst, hpw⟩ := s.cfg.pulsesOk_iff.1 hpulses
  rcases exec_cases h with ⟨r, -, rfl⟩ | ⟨-, rfl⟩
  · rw [raise_trace, List.self_eq_append_right] at hes
    simp [hes] at hw
  · obtain rfl : commandEvents i s.accept = es :=
      List.append_cancel_left ((afterScript_trace i s.accept).symm.trans hes)
    rcases hold_of_mem_commandEvents hw with rfl | rfl
    · exact hrst
    · exact hpw

/-! ### What a command does not read (R113, R20) -/

/-- `s` with the words presented, the trace, the pins and the bus of `o`. -/
def State.withOutputOf (s o : State) : State :=
  { s with host := o.host, trace := o.trace, drv := o.drv, held := o.held, sclk := o.sclk, mosi := o.mosi,
           rate := o.rate }

theorem faultOf_withOutputOf (i : Instr) (s o : State) : faultOf i (s.withOutputOf o) = faultOf i s := by
  cases i <;> rfl

theorem raise_withOutputOf (s o : State) (r : FaultReason) :
    (s.withOutputOf o).raise r = (s.raise r).withOutputOf o := by
  cases h : s.fault <;> simp [State.raise, State.withOutputOf, h]

theorem commandEvents_withOutputOf (i : Instr) (s o : State) :
    commandEvents i (s.withOutputOf o) = commandEvents i s := by
  cases i <;> rfl

/-- A script that starts from another output differs in the output it ends with, and in nothing else. -/
theorem afterScript_withOutputOf (i : Instr) (s o : State) :
    afterScript i (s.withOutputOf o) = (afterScript i s).withOutputOf (afterScript i (s.withOutputOf o)) := by
  cases i <;> rfl

/-- A command started from another output appends the same events and leaves the same registers. -/
theorem exec_withOutputOf {i : Instr} {s t : State} (o : State) (h : exec i s = .next t) :
    ∃ (o' : State) (es : List Event), exec i (s.withOutputOf o) = .next (t.withOutputOf o') ∧
      t.trace = s.trace ++ es ∧ o'.trace = o.trace ++ es := by
  have hfault := faultOf_withOutputOf i s o
  rcases exec_cases h with ⟨r, hr, rfl⟩ | ⟨hok, rfl⟩
  · exact ⟨o, [], by rw [exec_of_fault (hfault.trans hr), raise_withOutputOf], by simp, by simp⟩
  · refine ⟨afterScript i (s.accept.withOutputOf o), commandEvents i s.accept, ?_,
      afterScript_trace i s.accept, ?_⟩
    · rw [exec_of_noFault (hfault.trans hok)]
      exact congrArg (fun u : State => Host.Outcome.next u.finish) (afterScript_withOutputOf i s.accept o)
    · rw [afterScript_trace, commandEvents_withOutputOf]
      rfl

/-- Settles O41: the registers of the end state are those of `t`, whose output alone is replaced. -/
theorem commandsIgnorePastOutput : Obligations.CommandsIgnorePastOutput := by
  intro i s t h past pins m clock held rate hexec
  obtain ⟨o', es, hrun, htrace, hpast⟩ := exec_withOutputOf
    { s with host := h, trace := past, drv := pins, mosi := m, sclk := clock, held := held, rate := rate } hexec
  exact ⟨_, es, hrun, htrace, hpast, rfl, rfl, rfl, rfl, rfl, rfl, rfl, rfl, rfl, rfl⟩

end Sys2Proof.Machine
end

/-! ## INIT and RESET (spec/41_init_reset.md): their meanings, their frames and the 1 Hz frame both end with -/

section
namespace Sys2Proof.Machine

/-! ### What ResetSeq leaves: one lemma per field (R118) -/

section
variable (s : State)

@[simp] theorem afterReset_calib : (afterScript .reset s).calib = s.calib := rfl
@[simp] theorem afterReset_ctrl : (afterScript .reset s).ctrl = s.ctrl := rfl
@[simp] theorem afterReset_pinClk : (afterScript .reset s).pinClk = s.pinClk := rfl
@[simp] theorem afterReset_pinLatch : (afterScript .reset s).pinLatch = s.pinLatch := rfl
@[simp] theorem afterReset_pinRst : (afterScript .reset s).pinRst = s.pinRst := rfl
@[simp] theorem afterReset_st : (afterScript .reset s).st = .active := rfl
@[simp] theorem afterReset_held : (afterScript .reset s).held = false := rfl
@[simp] theorem afterReset_sclk : (afterScript .reset s).sclk = false := rfl
@[simp] theorem afterReset_mosi : (afterScript .reset s).mosi = .unspecified := rfl
@[simp] theorem afterReset_undef : (afterScript .reset s).undef = (s.undef || s.calib == 0) := rfl

end

/-- INIT is ResetSeq on the registers and pins it has written (R130). -/
theorem afterInit_eq_afterReset (clk latch rst : Pin) (s : State) :
    afterScript (.init clk latch rst) s = afterScript .reset (afterInitPins clk latch rst s) := rfl

/-! ### The pins ResetSeq and INIT drive (R35) -/

@[simp] theorem accept_drive (s : State) (q : Pin) : s.accept.drive q = s.drive q := rfl

@[simp] theorem finish_drive (s : State) (q : Pin) : s.finish.drive q = s.drive q := rfl

@[simp] theorem raise_drive (s : State) (r : FaultReason) (q : Pin) : (s.raise r).drive q = s.drive q := by
  rw [raise_eq_with_fault]
  rfl

/-- ResetSeq leaves its three pins low and every other pin as it was: its last write of each is the fall of a pulse. -/
theorem afterReset_drive (s : State) (q : Pin) :
    (afterScript .reset s).drive q =
      if q = s.pinClk ∨ q = s.pinLatch ∨ q = s.pinRst then .level false else s.drive q := by
  have hwrites : (afterScript .reset s).drive q =
      ((((s.setPin s.pinRst false).setPin s.pinClk false).setPin s.pinLatch false).setPin s.pinLatch false).drive q :=
    rfl
  rw [hwrites]
  simp only [drive_setPin]
  split_ifs <;> simp_all

/-- A pin INIT does not name is neither enabled nor pulsed (R131 (a)). -/
theorem afterInit_drive_other {clk latch rst q : Pin} (s : State) (hclk : q ≠ clk) (hlatch : q ≠ latch)
    (hrst : q ≠ rst) : (afterScript (.init clk latch rst) s).drive q = s.drive q := by
  have henabled : (afterInitPins clk latch rst s).drive q =
      (((s.setPin clk false).setPin latch false).setPin rst false).drive q := rfl
  rw [afterInit_eq_afterReset, afterReset_drive, henabled]
  simp [drive_setPin, hclk, hlatch, hrst]

/-! ### The 1 Hz word (R114, R118) -/

/-- ResetSeq computes the word of 1 Hz at the current calibration. -/
theorem afterReset_dph_of_ne {s : State} (h : s.calib ≠ 0) :
    (afterScript .reset s).dph = deltaPhase (2 ^ s.cfg.opFrac) s.calib := by
  rw [← oneHz_eq]
  exact computedDph_of_ne _ _ h

/-- With CALIB = 0 it stores a draw (R112, R134 (b)). -/
theorem afterReset_dph_of_zero {s : State} (h : s.calib = 0) :
    (afterScript .reset s).dph = Config.draw32 (s.draws + 3) := computedDph_of_zero _ _ h

/-- INIT computes with NOMINAL, which is never 0, so it leaves UNDEF (R112). -/
theorem afterInit_undef (clk latch rst : Pin) (s : State) : (afterScript (.init clk latch rst) s).undef = s.undef := by
  rw [afterInit_eq_afterReset, afterReset_undef]
  simp [nominal_ne_zero]

/-! ### When INIT and RESET run (R203, R204) -/

theorem firstForbidden_eq_none_iff (c : Config) (clk latch rst : Pin) :
    firstForbidden c clk latch rst = none ↔
      isForbidden c clk = false ∧ isForbidden c latch = false ∧ isForbidden c rst = false := by
  simp [firstForbidden]

theorem faultOf_init_eq_none_iff (clk latch rst : Pin) (s : State) :
    faultOf (.init clk latch rst) s = none ↔ firstForbidden s.cfg clk latch rst = none := Option.map_eq_none_iff

/-- INIT with no reserved pin runs to its end in every ST (R130). -/
theorem exec_init {clk latch rst : Pin} {s : State} (h : firstForbidden s.cfg clk latch rst = none) :
    exec (.init clk latch rst) s = .next (afterScript .reset (afterInitPins clk latch rst s.accept)).finish :=
  exec_of_noFault ((faultOf_init_eq_none_iff ..).2 h)

/-- A command other than INIT and CALIB runs to its end after INIT (R203). -/
theorem exec_of_initialized {i : Instr} {s : State} (hi : ∀ clk latch rst, i ≠ .init clk latch rst)
    (hc : ∀ x, i ≠ .calib x) (hst : s.st ≠ .uninit) : exec i s = .next (afterScript i s.accept).finish :=
  exec_of_noFault ((faultOf_eq_none_iff s hi hc).2 hst)

/-! ### The meanings -/

/-- Settles O18: INIT is ResetSeq on the registers it writes first, and their values are NOMINAL's and the variant's. -/
theorem initMeaning : Obligations.InitMeaning := by
  intro clk latch rst s
  refine ⟨rfl, fun p hp => exec_of_fault (by rw [faultOf, hp]; rfl), fun hclk hlatch hrst => ?_⟩
  have hok := (firstForbidden_eq_none_iff s.cfg clk latch rst).2 ⟨hclk, hlatch, hrst⟩
  have htrace := afterScript_trace (.init clk latch rst) s.accept
  rw [afterInit_eq_afterReset] at htrace
  have hdph : (afterScript .reset (afterInitPins clk latch rst s.accept)).dph =
      deltaPhase (2 ^ s.cfg.opFrac) (nominal s.cfg s.variant) := afterReset_dph_of_ne (nominal_ne_zero _ _)
  refine ⟨_, exec_init hok, by simp, by simp, by simp, fun hA => ?typeA, fun hB => ?typeB, fun hvalid => ?fits,
    by simp [hdph], by simp, ?events, ?count, by simp [afterReset_drive], by simp [afterReset_drive],
    by simp [afterReset_drive], by simp, by simp, by simp, by simp, by simp⟩
  case typeA => simp [nominal_eq, nominalHz, variantBit, hA]
  case typeB => simp [nominal_eq, nominalHz, variantBit, hB]
  case fits =>
    have hwidths := (s.cfg.valid_iff.1 hvalid).1
    simpa using nominal_lt (s.cfg.widthsOk_iff.1 hwidths).1 s.variant
  case events => simp [htrace, commandEvents, afterInit_eq_afterReset]
  case count => simp [htrace, commandEvents]

/-- Settles O19: after INIT the whole ResetSeq runs, and CALIB alone decides whether its word is computed or drawn. -/
theorem resetMeaning : Obligations.ResetMeaning := by
  intro s
  refine ⟨rfl, fun hst => exec_of_fault (if_pos hst), fun hst => ?_⟩
  have htrace := afterScript_trace .reset s.accept
  refine ⟨_, exec_of_initialized (by simp) (by simp) hst, fun hcalib => ⟨?computed, by simp [hcalib]⟩,
    fun hcalib => ⟨⟨s.draws + 3, ?drawn⟩, by simp [hcalib]⟩, by simp, by simp, by simp, by simp, by simp, by simp,
    by simp [htrace, commandEvents], by simp [htrace, commandEvents], by simp [afterReset_drive],
    by simp [afterReset_drive], by simp [afterReset_drive], by simp, by simp, by simp, by simp, by simp⟩
  case computed => exact afterReset_dph_of_ne (s := s.accept) hcalib
  case drawn => exact afterReset_dph_of_zero (s := s.accept) hcalib

/-! ### The frames -/

/-- Settles O31: a fault changes FAULT only, and ResetSeq writes DPH, UNDEF where CALIB = 0, and its three pins. -/
theorem frameOfReset : Obligations.FrameOfReset := by
  intro s t h
  have hruns := faultOf_eq_none_iff (i := .reset) s (by simp) (by simp)
  rcases exec_cases h with ⟨r, hr, rfl⟩ | ⟨hok, rfl⟩
  · have hst : s.st = .uninit := by simpa [hr] using hruns
    simpa [hst] using raise_eq_with_fault s r
  · have hundef : s.calib ≠ 0 → (afterScript .reset s.accept).undef = s.undef := by
      intro hcalib
      simp [hcalib]
    have hdrive : ∀ p, p ≠ s.pinClk → p ≠ s.pinLatch → p ≠ s.pinRst →
        (afterScript .reset s.accept).drive p = s.drive p := by
      intro p hclk hlatch hrst
      simp [afterReset_drive, hclk, hlatch, hrst]
    simpa [hruns.1 hok] using And.intro hundef hdrive

/-- Settles O32: a fault changes FAULT only, and INIT's script computes with NOMINAL and drives the pins it names. -/
theorem frameOfInit : Obligations.FrameOfInit := by
  intro clk latch rst s t h
  have hruns := faultOf_init_eq_none_iff clk latch rst s
  rcases exec_cases h with ⟨r, hr, rfl⟩ | ⟨hok, rfl⟩
  · have hreserved : firstForbidden s.cfg clk latch rst ≠ none := by simpa [hr] using hruns
    simpa [hreserved] using raise_eq_with_fault s r
  · have hdrive : ∀ p, p ≠ clk → p ≠ latch → p ≠ rst →
        (afterScript (.init clk latch rst) s.accept).drive p = s.drive p := fun _ => afterInit_drive_other s.accept
    simpa [hruns.1 hok, afterInit_undef] using hdrive

/-! ### The frame RESET ends with, and the worked example (R132, R133) -/

/-- Settles O52: with CALIB not 0 both commands compute the word of 1 Hz, and RESET's events are its pulses and then the
frame of that word. -/
theorem resetEndsLikeSetfreqOneHz : Obligations.ResetEndsLikeSetfreqOneHz := by
  intro s hst hcalib
  have hreset : (afterScript .reset s.accept).dph = deltaPhase (2 ^ s.cfg.opFrac) s.calib :=
    afterReset_dph_of_ne (s := s.accept) hcalib
  have hsetfreq : (s.accept.loadDph (2 ^ s.cfg.opFrac)).dph = deltaPhase (2 ^ s.cfg.opFrac) s.calib :=
    loadDph_dph_of_calib _ rfl hcalib
  refine ⟨_, _, commandEvents (.setfreq (2 ^ s.cfg.opFrac)) s.accept, exec_of_initialized (by simp) (by simp) hst,
    exec_of_initialized (by simp) (by simp) hst, hreset.trans hsetfreq.symm, ?active,
    afterScript_trace (.setfreq _) s.accept, ?trace⟩
  case active => simp [afterScript]
  case trace =>
    rw [finish_trace, afterScript_trace, commandEvents, commandEvents, hreset, hsetfreq]
    simp [resetEvents]

/-- What ends with the events of ResetSeq ends with their frame (R118). -/
theorem append_resetEvents (es : List Event) (c : Config) (clk latch rst : Pin) (d : Phase) (b : Byte) :
    ∃ before, es ++ resetEvents c clk latch rst d b = before ++ frame5 c latch d b :=
  ⟨_, (List.append_assoc ..).symm⟩

/-- Settles O25: the registers and the frame are those of INIT in general, at 1 Hz in whole hertz. -/
theorem initWorkedExample : Obligations.InitWorkedExample := by
  intro s hopW hpinW hopFrac hfree
  obtain ⟨hclk, hlatch, hrst⟩ := (firstForbidden_eq_none_iff ..).1 hfree
  obtain ⟨t, hexec, hpinClk, hpinLatch, hpinRst, hA, hB, -, hdph, hst, htrace, -⟩ :=
    (initMeaning 8 9 10 s).2.2 hclk hlatch hrst
  rw [hopFrac] at hA hB hdph
  refine ⟨(vectorWordsDecodeAsListed s.cfg hopW hpinW).1, t, hexec, hpinClk, hpinLatch, hpinRst, hst,
    fun hvariant => ?_, fun hvariant => ?_⟩
  · obtain ⟨hcalib, hctrl⟩ := hA hvariant
    have hword : t.dph = 34 := by rw [hdph, hcalib]; decide
    rw [htrace, hword, hctrl]
    exact ⟨hcalib, rfl, rfl, append_resetEvents ..⟩
  · obtain ⟨hcalib, hctrl⟩ := hB hvariant
    have hword : t.dph = 23 := by rw [hdph, hcalib]; decide
    rw [htrace, hword, hctrl]
    exact ⟨hcalib, rfl, rfl, append_resetEvents ..⟩

end Sys2Proof.Machine
end

/-! ## SETFREQ, UPDATE and CALIB (spec/42_frequency.md): their meanings, their corner cases and the frames -/

section
namespace Sys2Proof.Machine

/-! ### What the scripts of these commands leave -/

@[simp] theorem afterScript_setfreq (f : Operand) (s : State) :
    afterScript (.setfreq f) s = afterUpdate (s.loadDph f) := rfl

@[simp] theorem afterScript_update (s : State) : afterScript .update s = afterUpdate s := rfl

@[simp] theorem afterScript_pwrup (s : State) : afterScript .pwrup s = afterUpdate s := rfl

@[simp] theorem afterScript_pwrdn (s : State) : afterScript .pwrdn s = afterPwrdn s := rfl

@[simp] theorem loadDph_drive (s : State) (f : Operand) (q : Pin) : (s.loadDph f).drive q = s.drive q := rfl

/-- UpdateSeq pulses the latch pin and no other (R117). -/
@[simp] theorem afterUpdate_drive (s : State) (q : Pin) :
    (afterUpdate s).drive q = if q = s.pinLatch then .level false else s.drive q :=
  drive_setPin s s.pinLatch false q

/-- PWRDN pulses the latch pin and no other (R170). -/
@[simp] theorem afterPwrdn_drive (s : State) (q : Pin) :
    (afterPwrdn s).drive q = if q = s.pinLatch then .level false else s.drive q :=
  drive_setPin s s.pinLatch false q

theorem exec_setfreq {s : State} (f : Operand) (hst : s.st ≠ .uninit) :
    exec (.setfreq f) s = .next (afterUpdate (s.accept.loadDph f)).finish :=
  exec_of_initialized (by simp) (by simp) hst

theorem exec_update {s : State} (hst : s.st ≠ .uninit) : exec .update s = .next (afterUpdate s.accept).finish :=
  exec_of_initialized (by simp) (by simp) hst

/-- CALIB runs in every ST and writes CALIB; BUSY and SEQ are those of a command that has ended with no event. -/
theorem exec_calib (x : Operand) (s : State) :
    exec (.calib x) s = .next { s with calib := x, busy := false, seq := 0 } := rfl

/-! ### The meanings -/

/-- Settles O20: after INIT SetFreqCore runs, and CALIB alone decides whether its word is computed or drawn. -/
theorem setfreqMeaning : Obligations.SetfreqMeaning := by
  intro f s
  refine ⟨rfl, fun hst => exec_of_fault (if_pos hst), fun hst => ?_⟩
  refine ⟨_, exec_setfreq f hst, fun hcalib => ⟨?computed, by simp [hcalib]⟩,
    fun hcalib => ⟨⟨s.draws, ?drawn⟩, by simp [hcalib]⟩, ?sent⟩
  case computed => exact computedDph_of_ne f s.draws hcalib
  case drawn => exact computedDph_of_zero f s.draws hcalib
  case sent => simp

/-- Settles O21: after INIT UpdateSeq runs, which reads DPH and CTRL and writes no register but ST. -/
theorem updateMeaning : Obligations.UpdateMeaning := by
  intro s
  refine ⟨rfl, fun hst => exec_of_fault (if_pos hst), fun hst => ⟨_, exec_update hst, ?_⟩⟩
  simp

/-- SETFREQ with CALIB not 0 stores and sends the delta phase of R111. -/
theorem exec_setfreq_word {s : State} {c : Operand} (f : Operand) (hst : s.st ≠ .uninit) (hcalib : s.calib = c)
    (hc : c ≠ 0) : ∃ t, exec (.setfreq f) s = .next t ∧ t.dph = deltaPhase f c ∧
      t.trace = s.trace ++ frame5 s.cfg s.pinLatch (deltaPhase f c) s.ctrl := by
  have hword : (s.accept.loadDph f).dph = deltaPhase f c := loadDph_dph_of_calib f hcalib hc
  exact ⟨_, exec_setfreq f hst, hword, by rw [← hword]; exact afterUpdate_trace _⟩

/-- Settles O22: CALIB's script is its one write, and a SETFREQ after it divides by what it wrote. -/
theorem calibMeaning : Obligations.CalibMeaning := by
  intro x s
  refine ⟨rfl, ⟨_, exec_calib x s, rfl⟩, fun f t u ht hst hx hu => ?_⟩
  have hwritten := Host.Outcome.next.inj ((exec_calib x s).symm.trans ht)
  obtain ⟨v, hv, hword, -⟩ := exec_setfreq_word (s := t) f (by rw [← hwritten]; exact hst) (by rw [← hwritten]) hx
  obtain rfl := Host.Outcome.next.inj (hv.symm.trans hu)
  exact hword

/-! ### The frames -/

/-- The two ways a command other than INIT and CALIB ends (R203). -/
theorem exec_cases_of_initialized {i : Instr} {s t : State} (hi : ∀ clk latch rst, i ≠ .init clk latch rst)
    (hc : ∀ x, i ≠ .calib x) (h : exec i s = .next t) :
    (s.st = .uninit ∧ ∃ r, t = s.raise r) ∨ (s.st ≠ .uninit ∧ t = (afterScript i s.accept).finish) := by
  have hruns := faultOf_eq_none_iff s hi hc
  rcases exec_cases h with ⟨r, hr, ht⟩ | ⟨hok, ht⟩
  · exact .inl ⟨by simpa [hr] using hruns, r, ht⟩
  · exact .inr ⟨hruns.1 hok, ht⟩

/-- Settles O29: a fault changes FAULT only, and the two scripts write ST and drive the latch pin. -/
theorem frameOfUpdatePwrupPwrdn : Obligations.FrameOfUpdatePwrupPwrdn := by
  intro i s t hi h
  rcases exec_cases_of_initialized (by rintro _ _ _ rfl; simp at hi) (by rintro _ rfl; simp at hi) h with
    ⟨hst, r, rfl⟩ | ⟨hst, rfl⟩
  · simpa [hst] using raise_eq_with_fault s r
  · rcases hi with rfl | rfl | rfl <;> simp +contextual [hst]

/-- Settles O30: a fault changes FAULT only, and SetFreqCore writes DPH, ST and, where CALIB = 0, UNDEF. -/
theorem frameOfSetfreq : Obligations.FrameOfSetfreq := by
  intro f s t h
  rcases exec_cases_of_initialized (by simp) (by simp) h with ⟨hst, r, rfl⟩ | ⟨hst, rfl⟩
  · simpa [hst] using raise_eq_with_fault s r
  · have hundef : s.calib ≠ 0 → (s.accept.loadDph f).undef = s.undef := by
      intro hcalib
      simp [hcalib]
    have hdrive : ∀ p, p ≠ s.pinLatch → (afterScript (.setfreq f) s.accept).drive p = s.drive p := by
      intro p hp
      simp [hp]
    simpa [hst] using And.intro hundef hdrive

/-! ### The corner cases (R151) -/

/-- Settles O27: the delta phase's laws at the operands of R151, and a second SETFREQ, which finds the CALIB, CTRL and
latch pin the first one left. -/
theorem setfreqCornerCases : Obligations.SetfreqCornerCases := by
  intro f s hst
  obtain ⟨t, hexec, hcomputed, hdrawn, hactive, hcalib, hctrl, -, hlatch, -, htrace, -, hfault, -⟩ :=
    (setfreqMeaning f s).2.2 hst
  refine ⟨t, hexec, hactive, htrace, hdrawn, fun hc => ?_⟩
  obtain ⟨hword, -⟩ := hcomputed hc
  obtain ⟨-, hzero, hmultiple, hperiodic, hmono, hpred, -⟩ := deltaPhaseLaws s.calib hc
  refine ⟨fun hf => ?zero, fun hf => ?equal, fun _ => ⟨?wrap, hfault⟩, fun hf => ⟨?last, fun g hg => ?largest⟩,
    fun h125 hf => ?pastCalib, ?twice⟩
  case zero =>
    have hdph : t.dph = 0 := by rw [hword, hf, hzero]
    exact ⟨hdph, by rw [hdph]; rfl⟩
  case equal => rw [hword, hf, ← hmultiple 1, Nat.one_mul]
  case wrap => rw [hword, hperiodic]
  case last => rw [hword, hf, hpred]
  case largest =>
    rw [hword, hf]
    exact hmono g _ (Nat.le_sub_one_of_lt hg) (Nat.sub_one_lt hc)
  case pastCalib =>
    rw [hword, h125, hf]
    exact ⟨rfl, rfl⟩
  case twice =>
    obtain ⟨hcfg, -⟩ := frameOfSetfreq f s t hexec
    obtain ⟨u, hrun, hsame, hsent⟩ := exec_setfreq_word f (s := t) (by simp [hactive]) hcalib hc
    refine ⟨u, hrun, hsame.trans hword.symm, ?_⟩
    rw [hsent, hword, hcfg, hlatch, hctrl]

/-! ### The worked examples (R152, R156) -/

/-- SETFREQ's word has no pin fields, so it decodes whatever PIN_W is (R95, R98). -/
theorem decode_setfreq {c : Config} {f : Operand} (hf : f < 2 ^ c.opW) :
    decode c (0x03 * 2 ^ c.opW + f) = .ok (.setfreq f) := decode_append c 0x03 hf

/-- CALIB's word has no pin fields, so it decodes whatever PIN_W is (R95, R98). -/
theorem decode_calib {c : Config} {x : Operand} (hx : x < 2 ^ c.opW) :
    decode c (0x05 * 2 ^ c.opW + x) = .ok (.calib x) := decode_append c 0x05 hx

/-- Settles O26: the word and the frame are those of SETFREQ in general, at 10 MHz. -/
theorem setfreqWorkedExample : Obligations.SetfreqWorkedExample := by
  intro s hopW hst hcalib hctrl
  obtain ⟨t, hexec, hword, htrace⟩ := exec_setfreq_word 10000000 hst hcalib (by decide)
  refine ⟨?decoded, t, hexec, hword, ?sent⟩
  case decoded => simpa [hopW] using decode_setfreq (c := s.cfg) (f := 10000000) (by simp [hopW])
  case sent =>
    rw [htrace, hctrl, List.append_assoc, List.append_assoc]
    rfl

/-- Settles O28: the second CALIB overwrites the first one's only write, and the example's SETFREQ computes with the
CALIB before it. -/
theorem calibCornerCases : Obligations.CalibCornerCases := by
  refine ⟨fun x y s => ⟨_, _, exec_calib x s, exec_calib y _, rfl, rfl⟩, fun s hopW hst hctrl => ?_⟩
  obtain ⟨u, hexec, hword, htrace⟩ := exec_setfreq_word (c := 179999000) 1000000
    (s := { s with calib := 179999000, busy := false, seq := 0 }) hst rfl (by decide)
  refine ⟨?decoded, _, u, exec_calib 179999000 s, rfl, rfl, hexec, hword, hword, ?sent⟩
  case decoded => simpa [hopW] using decode_calib (c := s.cfg) (x := 179999000) (by simp [hopW])
  case sent =>
    rw [htrace, hctrl, List.append_assoc, List.append_assoc]
    rfl

end Sys2Proof.Machine
end

/-! ## PWRDN and PWRUP (spec/43_power.md): their meanings and the power cycle -/

section
namespace Sys2Proof.Machine

/-! ### The meanings -/

theorem exec_pwrdn {s : State} (hst : s.st ≠ .uninit) : exec .pwrdn s = .next (afterPwrdn s.accept).finish :=
  exec_of_initialized (by simp) (by simp) hst

theorem exec_pwrup {s : State} (hst : s.st ≠ .uninit) : exec .pwrup s = .next (afterUpdate s.accept).finish :=
  exec_of_initialized (by simp) (by simp) hst

/-- Settles O23: after INIT the power-down script runs, which reads the latch pin's register and writes none but ST. -/
theorem pwrdnMeaning : Obligations.PwrdnMeaning := by
  intro s
  refine ⟨rfl, fun hst => exec_of_fault (if_pos hst), fun hst => ⟨_, exec_pwrdn hst, ?_⟩⟩
  simp [framePd, powerDownByte]

/-- Settles O24: after INIT both PWRUP and UPDATE run UpdateSeq, so what UPDATE does PWRUP does. -/
theorem pwrupMeaning : Obligations.PwrupMeaning := by
  intro s
  refine ⟨rfl, fun hst => exec_of_fault (if_pos hst), fun hst => ?_⟩
  have hsame : exec .pwrup s = exec .update s := (exec_pwrup hst).trans (exec_update hst).symm
  refine ⟨hsame, ?_⟩
  rw [hsame]
  exact (updateMeaning s).2.2 hst

/-! ### PWRDN, then PWRUP (R173) -/

/-- The last frame after a power cycle is the stored Control Word's, whatever was sent before it. -/
theorem getLast?_frames_powerCycle {s : State} (h : s.Prepared) :
    (frames (afterUpdate (afterPwrdn s.accept).finish.accept).finish.trace).getLast? =
      some (frameBytes s.dph s.ctrl) := by
  have hready : (afterPwrdn s.accept).finish.accept.Prepared := h.accept.afterPwrdn.finish.accept
  rw [finish_trace, hready.frames_afterUpdate, List.getLast?_concat]
  rfl

/-- Settles O53: PWRDN leaves POWERED_DOWN, in which PWRUP runs and finds the registers as they were; in ACTIVE the frame
it sends is, by the invariant, the one sent last. -/
theorem powerCycleRestoresTheFrame : Obligations.PowerCycleRestoresTheFrame := by
  intro s hst
  have hdown : (afterPwrdn s.accept).finish.st ≠ .uninit := by simp
  refine ⟨_, _, exec_pwrdn hst, exec_pwrup hdown, by simp, by simp, by simp, by simp, by simp,
    fun hinv hactive => ?sameFrame⟩
  case sameFrame =>
    have hbefore : (frames s.trace).getLast? = some (frameBytes s.dph s.ctrl) := by
      simpa only [lastFrameFits, hactive] using hinv.last
    exact (getLast?_frames_powerCycle (hinv.prepared hst)).trans hbefore.symm

end Sys2Proof.Machine
end

/-! ## Faults (spec/60_exceptions.md): what FAULT holds after a command, and UNDEF -/

section
namespace Sys2Proof.Machine

/-! ### What a fault leaves (R200, R201) -/

/-- A state with a fault on record takes no step. -/
theorem step_of_recorded {s : State} {r : FaultReason} (hvalid : s.cfg.valid = true) (hfault : s.fault = some r) :
    step s = .fault (.quiescent r) := by
  simp only [step, hvalid, hfault, Bool.true_eq_false, if_false]

/-- Settles O11: a configuration the model takes is past the only check that comes before FAULT's. -/
theorem faultedStateIsQuiescent : Obligations.FaultedStateIsQuiescent := fun _ _ => step_of_recorded

/-- With FAULT empty, a command that raises a fault records it and changes nothing else. -/
theorem exec_of_firstFault {i : Instr} {s : State} {r : FaultReason} (hempty : s.fault = none)
    (h : faultOf i s = some r) : exec i s = .next { s with fault := some r } := by
  rw [exec_of_fault h, raise_of_empty s r hempty]

/-- After a command FAULT holds the reason it held before, else the one the command raises, if any. -/
theorem exec_fault {i : Instr} {s t : State} (h : exec i s = .next t) : t.fault = s.fault.or (faultOf i s) := by
  rcases exec_cases h with ⟨r, hr, rfl⟩ | ⟨hok, rfl⟩
  · rw [raise_fault, hr, Option.or_some]
  · rw [finish_fault, afterScript_fault, accept_fault, hok, Option.or_none]

/-! ### The reasons (R203, R204) -/

/-- INIT checks its pins and not ST. -/
theorem faultOf_init_ne_uninitializedUse (clk latch rst : Pin) (s : State) (opc : Opcode) :
    faultOf (.init clk latch rst) s ≠ some (.uninitializedUse opc) := by
  simp [faultOf]

/-- Settles O14: the five commands check ST before all else, and the only check of the other two is that of INIT's
pins. -/
theorem uninitializedUseChangesNothing : Obligations.UninitializedUseChangesNothing := by
  refine ⟨fun s f hst hempty => ?uninit, fun s t clk latch rst x opc hempty hexec => ?other⟩
  case uninit =>
    have hfaults {i : Instr} {opc : Opcode}
        (hi : faultOf i s = if s.st = .uninit then some (.uninitializedUse opc) else none) :
        exec i s = .next { s with fault := some (.uninitializedUse opc) } :=
      exec_of_firstFault hempty (hi.trans (if_pos hst))
    exact ⟨hfaults rfl, hfaults rfl, hfaults rfl, hfaults rfl, hfaults rfl⟩
  case other =>
    rcases hexec with hinit | hcalib
    · rw [exec_fault hinit, hempty, Option.none_or]
      exact faultOf_init_ne_uninitializedUse clk latch rst s opc
    · rw [exec_fault hcalib, hempty]
      exact nofun

theorem faultOf_init_of_firstForbidden {clk latch rst p : Pin} {s : State}
    (h : firstForbidden s.cfg clk latch rst = some p) :
    faultOf (.init clk latch rst) s = some (.forbiddenPin p) := by
  rw [faultOf, h, Option.map_some]

/-- Settles O15: INIT checks its pins before it looks at ST, and the first reserved one is found in R201's order. -/
theorem forbiddenPinChangesNothing : Obligations.ForbiddenPinChangesNothing := by
  intro s clk latch rst hempty bad
  have hrecords {p : Pin} (hp : firstForbidden s.cfg clk latch rst = some p) :
      exec (.init clk latch rst) s = .next { s with fault := some (.forbiddenPin p) } :=
    exec_of_firstFault hempty (faultOf_init_of_firstForbidden hp)
  simp only [firstForbidden_eq, isForbidden_iff] at hrecords
  refine ⟨fun hclk => hrecords ?clk, fun hclk hlatch => hrecords ?latch, fun hclk hlatch hrst => hrecords ?rst⟩
  case clk => rw [if_pos hclk]
  case latch => rw [if_neg hclk, if_pos hlatch]
  case rst => rw [if_neg hclk, if_neg hlatch, if_pos hrst]

/-! ### FAULT is kept (R209) -/

/-- Settles O16: a reason on record comes before any a command raises, and a step runs a command only with FAULT
empty. -/
theorem firstFaultIsKept : Obligations.FirstFaultIsKept := by
  refine ⟨fun i s t r hexec hrecorded => ?kept, fun s t hstep => ?empty⟩
  case kept => rw [exec_fault hexec, hrecorded, Option.some_or]
  case empty =>
    obtain ⟨-, hempty, -⟩ := step_cases hstep
    exact hempty

/-! ### UNDEF (R112, R205) -/

/-- RESET and SETFREQ run exactly after INIT (R203). -/
theorem faultOf_eq_none_iff_of_reset_or_setfreq {i : Instr} (s : State) (hi : i = .reset ∨ ∃ f, i = .setfreq f) :
    faultOf i s = none ↔ s.st ≠ .uninit := by
  rcases hi with rfl | ⟨f, rfl⟩
  · exact faultOf_eq_none_iff s (by simp) (by simp)
  · exact faultOf_eq_none_iff s (by simp) (by simp)

/-- Of the scripts only those of RESET and SETFREQ divide by the CALIB they find: INIT writes it first (R130). -/
theorem afterScript_undef_iff (i : Instr) (s : State) :
    (afterScript i s).undef = true ↔
      s.undef = true ∨ (s.calib = 0 ∧ (i = .reset ∨ ∃ f, i = .setfreq f)) := by
  cases i with
  | init clk latch rst => simp [afterInit_undef]
  | reset => simp
  | setfreq f => simp
  | update => simp
  | calib x => simp [afterScript]
  | pwrdn => simp
  | pwrup => simp

/-- Settles O17: a fault leaves UNDEF, and RESET and SETFREQ raise none exactly after INIT. -/
theorem undefMarksCalibrationZero : Obligations.UndefMarksCalibrationZero := by
  intro i s t hexec
  rcases exec_cases hexec with ⟨r, hr, rfl⟩ | ⟨hok, rfl⟩
  · have huninit : (i = .reset ∨ ∃ f, i = .setfreq f) → s.st = .uninit := fun hi => by
      simpa [hr] using faultOf_eq_none_iff_of_reset_or_setfreq s hi
    rw [raise_undef]
    exact ⟨⟨.inl, fun h => h.resolve_right fun ⟨hst, _, hi⟩ => hst (huninit hi)⟩,
      fun hclear hset => by simp [hclear] at hset⟩
  · have hruns : (i = .reset ∨ ∃ f, i = .setfreq f) → s.st ≠ .uninit := fun hi =>
      (faultOf_eq_none_iff_of_reset_or_setfreq s hi).1 hok
    refine ⟨?sets, fun _ _ => by simp⟩
    case sets =>
      rw [finish_undef, afterScript_undef_iff, accept_undef, accept_calib]
      exact or_congr_right ⟨fun ⟨hcalib, hi⟩ => ⟨hruns hi, hcalib, hi⟩, fun ⟨_, hcalib, hi⟩ => ⟨hcalib, hi⟩⟩

end Sys2Proof.Machine
end

/-! ## Reset, hazards and timing (spec/70_reset_and_hazards.md): power-on, the life of a calibration and the least
durations -/

section
namespace Sys2Proof

/-- The three clock rates of R8. -/
theorem Config.rateOk_iff (c : Config) :
    c.rateOk = true ↔ c.sclkHz = 2000000 ∨ c.sclkHz = 4000000 ∨ c.sclkHz = 8000000 := by
  simp [Config.rateOk, or_assoc]

end Sys2Proof

namespace Sys2Proof.Machine

/-! ### Power-on (R230) -/

/-- Settles O6: the fields `State.powerOn` gives a value the spec names; with no pin listed in DRV each is Z. -/
theorem powerOnSetsWhatTheSpecSets : Obligations.PowerOnSetsWhatTheSpecSets :=
  fun _ => ⟨rfl, rfl, rfl, rfl, rfl, fun _ => rfl, rfl, rfl, rfl, rfl⟩

/-- At power-on each value of parameterised width is 0, and no pin is driven and no word presented. -/
theorem fits_powerOn (c : Config) : (State.powerOn c).Fits where
  calib := Nat.two_pow_pos _
  pinClk := Nat.two_pow_pos _
  pinLatch := Nat.two_pow_pos _
  pinRst := Nat.two_pow_pos _
  driven := nofun
  host := nofun

/-- In UNINIT with T empty the clauses on CTRL and the frames ask nothing, and every pin is as the trace has it: Z. -/
theorem inv_powerOn (c : Config) : (State.powerOn c).Inv where
  fits := fits_powerOn c
  idle := rfl
  released := rfl
  clockLow := rfl
  dataOpen := rfl
  strap := rfl
  pinsCanonical := rfl
  pinsFollowTrace _ := rfl
  bracket := rfl
  control hst := absurd rfl hst
  shapes := nofun
  last := rfl
  wholeFrames := ⟨rfl, rfl⟩

/-- Settles O37: `State.reset` is the power-on of the default build. -/
theorem powerOnMeetsInvariant : Obligations.PowerOnMeetsInvariant :=
  ⟨inv_powerOn, inv_powerOn Config.default⟩

/-! ### The life of a calibration (R235, R236) -/

/-- Settles O54: CALIB leaves ST, so UPDATE and PWRUP run after it, and UpdateSeq sends the DPH it finds. -/
theorem calibrationWaitsForTheNextComputation : Obligations.CalibrationWaitsForTheNextComputation := by
  intro x s hst
  have hcalibrated : ({ s with calib := x, busy := false, seq := 0 } : State).st ≠ .uninit := hst
  exact ⟨_, _, exec_calib x s, exec_update hcalibrated, exec_pwrup hcalibrated, rfl, rfl,
    by simp, by simp, by simp⟩

/-- Acceptance writes BUSY and SEQ and INIT's registers include CALIB, so what the three held before is lost. -/
theorem afterInitPins_accept_with_calib (clk latch rst : Pin) (s : State) (x : Operand) (busy : Bool) (seq : Nat) :
    afterInitPins clk latch rst ({ s with calib := x, busy := busy, seq := seq } : State).accept =
      afterInitPins clk latch rst s.accept := rfl

/-- INIT after a CALIB is INIT alone. -/
theorem exec_init_of_exec_calib {x : Operand} {clk latch rst : Pin} {s t : State}
    (hfree : firstForbidden s.cfg clk latch rst = none) (hcalib : exec (.calib x) s = .next t) :
    exec (.init clk latch rst) t = exec (.init clk latch rst) s := by
  obtain rfl := Host.Outcome.next.inj ((exec_calib x s).symm.trans hcalib)
  rw [exec_init hfree, exec_init (s := { s with calib := x, busy := false, seq := 0 }) hfree,
    afterInitPins_accept_with_calib]

/-- INIT reloads CALIB with NOMINAL (R130). -/
theorem calib_of_exec_init {clk latch rst : Pin} {s t : State} (hfree : firstForbidden s.cfg clk latch rst = none)
    (h : exec (.init clk latch rst) s = .next t) : t.calib = nominal s.cfg s.variant := by
  obtain rfl := Host.Outcome.next.inj ((exec_init hfree).symm.trans h)
  simp

/-- Settles O55: INIT overwrites what the CALIB has written. -/
theorem initDiscardsCalibration : Obligations.InitDiscardsCalibration := by
  intro x clk latch rst s t u hfree hcalib hinit
  rw [exec_init_of_exec_calib hfree hcalib] at hinit
  exact ⟨hinit, calib_of_exec_init hfree hinit⟩

/-! ### The least durations (R243) -/

/-- A whole number of picoseconds makes one bit time at each clock rate of R8 (log entry 4). -/
theorem bitTime_mul_sclkHz {c : Config} (h : c.rateOk = true) : bitTime c * c.sclkHz = 10 ^ 12 := by
  have hdivides : c.sclkHz ∣ 10 ^ 12 := by
    rcases c.rateOk_iff.1 h with hrate | hrate | hrate <;> rw [hrate] <;> decide
  exact Nat.div_mul_cancel hdivides

@[simp] theorem leastTime_nil (c : Config) : leastTime c [] = 0 := rfl

@[simp] theorem leastTime_cons (c : Config) (e : Event) (es : List Event) :
    leastTime c (e :: es) = eventTime c e + leastTime c es := List.sum_cons

@[simp] theorem leastTime_append (c : Config) (es fs : List Event) :
    leastTime c (es ++ fs) = leastTime c es + leastTime c fs := by
  rw [leastTime, List.map_append, List.sum_append, leastTime, leastTime]

/-- A pulse takes its width and T_PW low after it (R116). -/
@[simp] theorem leastTime_pulseEvents (c : Config) (p : Pin) (w : Duration) :
    leastTime c (pulseEvents c p w) = w + c.tPw := by
  simp [pulseEvents, eventTime]

/-- A frequency frame takes 40 bit times and its latch pulse (R62). -/
@[simp] theorem leastTime_frame5 (c : Config) (latch : Pin) (d : Phase) (ctrl : Byte) :
    leastTime c (frame5 c latch d ctrl) = 40 * bitTime c + 2 * c.tPw := by
  simp only [frame5, frameBytes, List.map_cons, List.map_nil, leastTime_append, leastTime_cons, leastTime_nil,
    leastTime_pulseEvents, eventTime]
  ring

/-- A power-down frame takes 8 bit times and its two latch pulses (R63). -/
@[simp] theorem leastTime_framePd (c : Config) (latch : Pin) :
    leastTime c (framePd c latch) = 8 * bitTime c + 4 * c.tPw := by
  simp only [framePd, leastTime_append, leastTime_cons, leastTime_nil, leastTime_pulseEvents, eventTime]
  ring

/-- ResetSeq takes its three pulses and its frame (R118). -/
@[simp] theorem leastTime_resetEvents (c : Config) (clk latch rst : Pin) (d : Phase) (ctrl : Byte) :
    leastTime c (resetEvents c clk latch rst d ctrl) = c.tRstPw + 7 * c.tPw + 40 * bitTime c := by
  simp only [resetEvents, leastTime_append, leastTime_pulseEvents, leastTime_frame5]
  ring

/-- Settles O56: without a fault the events are those of the command's pulses and frames, whose times add up. -/
theorem leastCommandTimes : Obligations.LeastCommandTimes := by
  refine ⟨fun c hvalid => ?bit, fun i s t es hexec hfault hes => ?command⟩
  case bit =>
    obtain ⟨-, hrate, -⟩ := c.valid_iff.1 hvalid
    exact bitTime_mul_sclkHz hrate
  case command =>
    obtain rfl : commandEvents i s.accept = es :=
      List.append_cancel_left ((exec_appends_commandEvents hexec hfault).symm.trans hes)
    cases i with
    | init clk latch rst =>
      simp [commandEvents, eventTime]
    | reset => exact leastTime_resetEvents ..
    | setfreq f => exact leastTime_frame5 ..
    | update => exact leastTime_frame5 ..
    | calib x => rfl
    | pwrdn => exact leastTime_framePd ..
    | pwrup => exact leastTime_frame5 ..

end Sys2Proof.Machine
end
